-- ==== Sys2Proof/Word.lean ====
section
/-! DEFINITION. The word types of the core: every register and command word has 32 bits, every buffer
element 8 (spec/10_state.md R55, spec/20_memory.md R100, R101). -/

namespace Sys2Proof

/-- A 32-bit word: a command word, an operand word, a response or a register (R55, R130). -/
abbrev Word := BitVec 32

/-- A byte of a buffer or of an output stream (R12). -/
abbrev Byte := BitVec 8

end Sys2Proof
end

