-- ==== Sys2Proof/Config.lean ====
section
/-! DEFINITION. The constants of spec/00_scope.md R9; the implementation parameters of R8, which the model
takes as one argument of type `Params`, and their values for this hardware; and the external Reed-Solomon
engine, of which only the type is known (spec/45_rs_codec_control.md R360, log 5). The value of COVER stands in
Machine/Scrambler.lean, all values together in Machine/Parameters.lean. -/

namespace Sys2Proof

namespace Config

/-- `RS_N`, the length of an RS block in bytes (R9). -/
abbrev rsN : Nat := 255

/-- `RS_K`, the data bytes of an RS block (R9). -/
abbrev rsK : Nat := 223

/-- `RS_P = RS_N - RS_K`, the parity bytes of an RS block (R9). -/
abbrev rsP : Nat := 32

/-- `ASM_BITS`, the length of the sync marker in bits (R9). -/
abbrev asmBits : Nat := 32

/-- `ASM_BYTES`, the length of the sync marker in bytes (R9). -/
abbrev asmBytes : Nat := 4

/-- `SR_WIDTH`, the width of the bit shift register (R8, R43). -/
abbrev srWidth : Nat := 32

/-- This hardware's value of `CNT_WIDTH`, the width of every frame counter (R8, R48), which is the width of the
registers that show them (R68). -/
abbrev cntWidth : Nat := 32

/-- This hardware's value of `ECNT_WIDTH`, the width of the encoder byte count (R8, R49), which is the width of
the field that shows it (R69). -/
abbrev ecntWidth : Nat := 16

/-- This hardware's value of `P_MAX_I`, the largest legal interleave depth; the largest value the parameter may
have (R8, R70). -/
abbrev pMaxI : Nat := 8

/-- The size of the codeword buffer `cw`, `P_MAX_I * 255` bytes (R45, R115). -/
abbrev cwSize : Nat := pMaxI * rsN

/-- The size of the payload buffers `pl` and `ebuf`, `P_MAX_I * 223` bytes (R46, R49, R115). -/
abbrev plSize : Nat := pMaxI * rsK

/-- `CWLEN(n)`, the length of a codeword of depth `n` (R9). -/
def cwLen (n : Nat) : Nat := n * rsN

/-- `PLEN(n)`, the length of a payload of depth `n` (R9). -/
def pLen (n : Nat) : Nat := n * rsK

/-- `FLEN(n)`, the length of a normal-mode frame of depth `n` (R9). -/
def fLen (n : Nat) : Nat := asmBytes + n * rsN

/-- This hardware's value of `SYNC_RESET`, the reset value of SYNC_WORD (R8, R62; the spec takes the value from
general knowledge, log 9). -/
def syncReset : Word := 0x1ACFFC1D#32

end Config

/-- A 255-byte RS block (R360). -/
abbrev Block255 := Vector Byte Config.rsN

/-- The 223 data bytes of an RS block (R360). -/
abbrev Data223 := Vector Byte Config.rsK

/-- The 32 parity bytes of an RS block (R360). -/
abbrev Parity32 := Vector Byte Config.rsP

/-- The external Reed-Solomon engine as the core sees it: two total functions of the block and the
dual-basis flag (R360). A decoding answers nothing on the uncorrectable-failure signal, else the number of
corrected errors and the corrected block (R361). -/
structure RsEngine where
  decode : Block255 → Bool → Option (Nat × Block255)
  parity : Data223 → Bool → Parity32

/-- The cover sequence, the parameter `COVER` (R8, R321). -/
abbrev Cover := Fin Config.rsN → Byte

/-- The implementation parameters the model takes as an argument (R8). The registers of State have the widest
legal widths, a narrower counter counting modulo its own width (log 14). -/
structure Params where
  /-- `P_MAX_I`, the largest legal interleave depth. -/
  pMaxI : Nat
  /-- `CNT_WIDTH`, the width of every frame counter (R48). -/
  cntWidth : Nat
  /-- `ECNT_WIDTH`, the width of the encoder byte count (R49). -/
  ecntWidth : Nat
  /-- `COVER`, the cover sequence (R321). -/
  cover : Cover
  /-- `SYNC_RESET`, the reset value of SYNC_WORD (R62). -/
  syncReset : Word
  /-- `RsDecode` and `RsParity` (R360). -/
  engine : RsEngine
  /-- The legal range of `P_MAX_I` (R8). -/
  pMaxI_legal : 1 ≤ pMaxI ∧ pMaxI ≤ Config.pMaxI
  /-- A counter has a bit and fits the register that shows it (R68, log 14). -/
  cntWidth_legal : 1 ≤ cntWidth ∧ cntWidth ≤ Config.cntWidth
  /-- The byte count holds the length of every legal payload and fits the field that shows it (R69, R251, log 14). -/
  ecntWidth_legal : Config.pLen pMaxI < 2 ^ ecntWidth ∧ ecntWidth ≤ Config.ecntWidth

namespace Config

/-- `RsDecode` of the engine this core is wired to: uninterpreted, nothing about its values can be proved
(R360, R367, log 5). -/
opaque rsDecode : Block255 → Bool → Option (Nat × Block255)

/-- `RsParity` of the engine this core is wired to: uninterpreted (R360, log 5). -/
opaque rsParity : Data223 → Bool → Parity32

/-- The engine this core is wired to (R514). -/
def rsEngine : RsEngine := ⟨rsDecode, rsParity⟩

end Config

end Sys2Proof
end

