-- ==== Sys2Proof/Machine/State.lean ====
section
/-! DEFINITION. Every piece of state of the core (spec/10_state.md), the pending inputs of the host, and the
state right after power-on (R80). Plain data throughout. -/

namespace Sys2Proof

namespace Machine

/-- The decoder's state, exactly one active at a time (R42). -/
inductive DState where
  | syncSearch
  | codeword
deriving DecidableEq, Repr

/-- The fields of DEC_CFG (R58). -/
structure DecCfg where
  t : BitVec 6
  rsEn : Bool
  ilvEn : Bool
  dscrEn : Bool
  dual : Bool
  depth : BitVec 4
deriving DecidableEq, Repr

/-- The fields of ENC_CFG (R60). -/
structure EncCfg where
  rsEn : Bool
  ilvEn : Bool
  scrEn : Bool
  dual : Bool
  msgMode : Bool
  idleEn : Bool
  tail : Bool
  depth : BitVec 4
  idleGap : BitVec 16
deriving DecidableEq, Repr

/-- The decoder's registers and buffers (R42 to R46). -/
structure Decoder where
  dstate : DState
  sr : BitVec Config.srWidth
  bitcnt : BitVec 3
  bytecnt : BitVec 11
  cw : Vector Byte Config.cwSize
  pl : Vector Byte Config.plSize
deriving DecidableEq, Repr

/-- The last-decode result registers (R47). -/
structure LastResult where
  valid : Bool
  ok : Bool
  fillFast : Bool
  fillExh : Bool
  failMask : BitVec 8
  corr : Word
deriving DecidableEq, Repr

/-- The five frame counters (R48). -/
structure Counters where
  framesReceived : BitVec Config.cntWidth
  framesDecoded : BitVec Config.cntWidth
  subframesDecoded : BitVec Config.cntWidth
  fillFramesDecoded : BitVec Config.cntWidth
  framesTransmitted : BitVec Config.cntWidth
deriving DecidableEq, Repr

/-- The encoder's registers and buffer (R49). -/
structure Encoder where
  ebuf : Vector Byte Config.plSize
  ecount : BitVec Config.ecntWidth
  pending : Bool
  started : Bool
deriving DecidableEq, Repr

/-- The five sticky event bits (R50). -/
structure Sticky where
  uncorr : Bool
  msgErr : Bool
  lenErr : Bool
  cmdErr : Bool
  cfgErr : Bool
deriving DecidableEq, Repr

/-- What the host and the platform can do to the core between two commands: issue a transaction on the
command port (R130), or assert the reset input (R600, log 3). -/
inductive HostInput where
  | command (cmd wdata : Word)
  | reset
deriving DecidableEq, Repr

/-- The state of the core and of its interface. `port` holds the inputs the host has yet to give, the next
one first (log 1). -/
structure State where
  run : Bool
  decCfg : DecCfg
  encCfg : EncCfg
  syncWord : Word
  dec : Decoder
  last : LastResult
  counters : Counters
  enc : Encoder
  sticky : Sticky
  rx : List (List Byte)
  tx : List Byte
  rdata : Word
  port : List HostInput
deriving DecidableEq, Repr

/-- Reasons a step stops with a fault. There is none: no event stops, halts, stalls or resets the core
(R500), and no command word makes it hang or fault (R141). Nobody raises one; that is exact, hence safe. -/
inductive Fault where
deriving DecidableEq, Repr

/-- Reasons a step is refused. -/
inductive Refusal where
  /-- An instruction without a meaning yet, raised by its arm of `exec` only. Safe. No arm raises it: every
  command has its meaning. -/
  | notModelled (mnemonic : String)
deriving DecidableEq, Repr

/-- DEC_CFG after reset, register value 0x00001000 (R58, R80). -/
def DecCfg.reset : DecCfg :=
  { t := 0#6, rsEn := false, ilvEn := false, dscrEn := false, dual := false, depth := 1#4 }

/-- ENC_CFG after reset, register value 0x00001000 (R60, R80). -/
def EncCfg.reset : EncCfg :=
  { rsEn := false, ilvEn := false, scrEn := false, dual := false, msgMode := false, idleEn := false
    tail := false, depth := 1#4, idleGap := 0#16 }

/-- The decoder after reset (R80). The buffers' contents are unspecified and unobservable; the model zeroes
them (log 4). -/
def Decoder.reset : Decoder :=
  { dstate := .syncSearch, sr := 0#32, bitcnt := 0#3, bytecnt := 0#11
    cw := Vector.replicate Config.cwSize 0#8, pl := Vector.replicate Config.plSize 0#8 }

/-- The last-decode result registers after reset (R80). -/
def LastResult.reset : LastResult :=
  { valid := false, ok := false, fillFast := false, fillExh := false, failMask := 0#8, corr := 0#32 }

/-- The counters after reset (R80). -/
def Counters.reset : Counters :=
  { framesReceived := 0#Config.cntWidth, framesDecoded := 0#Config.cntWidth
    subframesDecoded := 0#Config.cntWidth, fillFramesDecoded := 0#Config.cntWidth
    framesTransmitted := 0#Config.cntWidth }

/-- The encoder after reset (R80). The buffer's contents are unspecified and unobservable; the model zeroes
them (log 4). -/
def Encoder.reset : Encoder :=
  { ebuf := Vector.replicate Config.plSize 0#8, ecount := 0#Config.ecntWidth, pending := false, started := false }

/-- The sticky event bits after reset (R80). -/
def Sticky.reset : Sticky :=
  { uncorr := false, msgErr := false, lenErr := false, cmdErr := false, cfgErr := false }

/-- The machine right after power-on (R80), for a value of the parameter SYNC_RESET (R8): nothing configured,
RUN = 0, the output streams empty, waiting for its first command (R605) with no input of the host placed yet
(log 1). -/
def State.resetWith (syncReset : Word) : State :=
  { run := false
    decCfg := DecCfg.reset
    encCfg := EncCfg.reset
    syncWord := syncReset
    dec := Decoder.reset
    last := LastResult.reset
    counters := Counters.reset
    enc := Encoder.reset
    sticky := Sticky.reset
    rx := []
    tx := []
    rdata := 0#32
    port := [] }

/-- This hardware right after power-on (R80). -/
def State.reset : State := State.resetWith Config.syncReset

end Machine

end Sys2Proof
end

