-- ==== Sys2Proof/Machine/Ops.lean ====
section
/-! DEFINITION. The named operations over the state that every command shares: one writer per field, the
buffers, the response and the output streams (spec/00_scope.md R13, R15), the record of an event and its
clearing (spec/60_exceptions.md R501, R511), the illegal command (spec/30_encoding.md R144), and the resets
(spec/70_reset_and_hazards.md R600 to R603). -/

namespace Sys2Proof

namespace Machine

/-! ### One writer per field of the state (R13) -/

/-- Write CTRL.RUN (R57). -/
def State.withRun (s : State) (v : Bool) : State := { s with run := v }

/-- Write DEC_CFG (R58). -/
def State.withDecCfg (s : State) (v : DecCfg) : State := { s with decCfg := v }

/-- Write ENC_CFG (R60). -/
def State.withEncCfg (s : State) (v : EncCfg) : State := { s with encCfg := v }

/-- Write SYNC_WORD (R62). -/
def State.withSyncWord (s : State) (v : Word) : State := { s with syncWord := v }

/-- Write the decoder (R42 to R46). -/
def State.withDec (s : State) (v : Decoder) : State := { s with dec := v }

/-- Write the last-decode result registers (R47). -/
def State.withLast (s : State) (v : LastResult) : State := { s with last := v }

/-- Write the frame counters (R48). -/
def State.withCounters (s : State) (v : Counters) : State := { s with counters := v }

/-- Write the encoder (R49). -/
def State.withEnc (s : State) (v : Encoder) : State := { s with enc := v }

/-- Write the sticky event bits (R50). -/
def State.withSticky (s : State) (v : Sticky) : State := { s with sticky := v }

/-- Write the RX output stream (R51). -/
def State.withRx (s : State) (v : List (List Byte)) : State := { s with rx := v }

/-- Write the TX output stream (R51). -/
def State.withTx (s : State) (v : List Byte) : State := { s with tx := v }

/-- Write the response (R52). -/
def State.withRdata (s : State) (v : Word) : State := { s with rdata := v }

/-- Write the host's pending inputs (log 1). -/
def State.withPort (s : State) (v : List HostInput) : State := { s with port := v }

/-! ### Buffers (R13, R100): `BufRead` and `BufWrite`

An index outside the buffer never occurs in a run (R306); the model then reads 0 and drops the write (log 7). -/

/-- `buf[k]` (R13). -/
def bufRead {m : Nat} (buf : Vector Byte m) (k : Nat) : Byte := buf[k]?.getD 0#8

/-- `buf[k] <- v` (R13). -/
def bufWrite {m : Nat} (buf : Vector Byte m) (k : Nat) (v : Byte) : Vector Byte m := buf.setIfInBounds k v

/-- `m` bytes of 0x00 (R12). -/
def zeros (m : Nat) : List Byte := List.replicate m 0#8

/-! ### Arithmetic primitives (R14) -/

/-- `inc_W` (R14), in a register of `w` bits: every counter wraps modulo 2 to its width `W` (R48). -/
def inc (W : Nat) {w : Nat} (c : BitVec w) : BitVec w := BitVec.ofNat w ((c.toNat + 1) % 2 ^ W)

/-- `sat_W` (R14), in a register of `w` bits: the encoder's byte count in message mode (R251). -/
def sat (W : Nat) {w : Nat} (c : BitVec w) : BitVec w := BitVec.ofNat w (min (c.toNat + 1) (2 ^ W - 1))

/-! ### Interface primitives (R15) -/

/-- `respond(v)`: the response of the current command (R102). -/
def respond (v : Word) (s : State) : State := s.withRdata v

/-- `emit_tx(b)`: append bytes to the TX output stream, which never refuses (R15, R520). -/
def emitTx (b : List Byte) (s : State) : State := s.withTx (s.tx ++ b)

/-- `publish(p)`: append a payload as one message to the RX output stream, which never refuses (R15, R520). -/
def publish (p : List Byte) (s : State) : State := s.withRx (s.rx ++ [p])

/-! ### Events: taking one, and clearing its record (R500 to R508, R511) -/

/-- The events of the error taxonomy (R502 to R507). -/
inductive Event where
  | syncNotFound
  | uncorrectableBlock
  | malformedInputMessage
  | lengthMismatch
  | illegalCommand
  | configRejected
deriving DecidableEq, Repr

/-- The code of a recorded event, the index of its STATUS bit (R508). -/
def Event.code : Event → Option Nat
  | .syncNotFound => none
  | .uncorrectableBlock => some 8
  | .malformedInputMessage => some 9
  | .lengthMismatch => some 10
  | .illegalCommand => some 11
  | .configRejected => some 12

/-- The sticky bits after an event: its own bit is 1 (R501); SyncNotFound has none (R502). -/
def Sticky.record (e : Event) (k : Sticky) : Sticky :=
  match e with
  | .syncNotFound => k
  | .uncorrectableBlock => { k with uncorr := true }
  | .malformedInputMessage => { k with msgErr := true }
  | .lengthMismatch => { k with lenErr := true }
  | .illegalCommand => { k with cmdErr := true }
  | .configRejected => { k with cfgErr := true }

/-- `raise E`: set the sticky bit of the event and nothing else; it never changes control flow (R15, R501). -/
def raise (e : Event) (s : State) : State := s.withSticky (s.sticky.record e)

/-- The sticky bits after writing `w` to STATUS: each bit 8 to 12 of `w` that is 1 clears the sticky bit at
its place (R64). It is the closest thing to a return from an event (R511). -/
def Sticky.clear (w : Word) (k : Sticky) : Sticky :=
  { uncorr := k.uncorr && !w.getLsbD 8
    msgErr := k.msgErr && !w.getLsbD 9
    lenErr := k.lenErr && !w.getLsbD 10
    cmdErr := k.cmdErr && !w.getLsbD 11
    cfgErr := k.cfgErr && !w.getLsbD 12 }

/-- The illegal command: IllegalCommand is recorded, the response is 0, nothing else changes (R144, R506). -/
def illegalCommand (s : State) : State := respond 0#32 (raise .illegalCommand s)

/-- A data command is illegal while RUN = 0 (R145); else it has the effect given. -/
def dataCommand (effect : State → State) (s : State) : State :=
  if s.run then effect s else illegalCommand s

/-! ### Resets (R600 to R603) -/

/-- The decoder on entering SyncSearch: the shift register and both position counters are zeroed, the
buffers keep their contents (R210). -/
def Decoder.enterSyncSearch (d : Decoder) : Decoder :=
  { d with dstate := .syncSearch, sr := 0#32, bitcnt := 0#3, bytecnt := 0#11 }

/-- `EnterSyncSearch()` (R210). -/
def enterSyncSearch (s : State) : State := s.withDec s.dec.enterSyncSearch

/-- The encoder after `DatapathInit`: nothing built, nothing queued, no frame started (R601). -/
def Encoder.init (c : Encoder) : Encoder := { c with ecount := 0#Config.ecntWidth, pending := false, started := false }

/-- `DatapathInit()` (R601). -/
def datapathInit (s : State) : State := (enterSyncSearch s).withEnc s.enc.init

/-- `CounterClear` (R602). -/
def counterClear (s : State) : State := s.withCounters Counters.reset

/-- `ResultClear` (R603). -/
def resultClear (s : State) : State := s.withLast LastResult.reset

/-- The hardware reset input: every state element takes its reset value, and what was appended to the output
streams stays, since the streams belong to the host (R600, R604), as do its pending inputs (log 3). -/
def hardwareReset (P : Params) (s : State) : State :=
  (((State.resetWith P.syncReset).withRx s.rx).withTx s.tx).withPort s.port

end Machine

end Sys2Proof
end

