-- ==== Sys2Proof/Machine/Flags.lean ====
section
/-! DEFINITION. Flag and status computations: the marker comparison (spec/40_bit_synchronizer.md R204), the
two fill detectors (spec/44_fill_detector.md R340, R341), and the words of STATUS, DEC_POS and CTRL
(spec/10_state.md R57, R63, R65). -/

namespace Sys2Proof

namespace Machine

/-- `popcount(v)`, the number of 1 bits (R14). -/
def popcount (v : Word) : Nat := (List.range 32).countP fun i => v.getLsbD i

/-- `hamming(a, b)`, xor then population count (R14). -/
def hamming (a b : Word) : Nat := popcount (a ^^^ b)

/-- The marker comparison: sync is declared iff the distance is at most `T` (R204). -/
def markerFound (sr sync : Word) (t : BitVec 6) : Bool := decide (hamming sr sync ≤ t.toNat)

/-- `FillFast(pl)`: the first two payload bytes are 0 (R340). -/
def fillFast (pl : Vector Byte Config.plSize) : Bool :=
  decide (bufRead pl 0 = 0#8) && decide (bufRead pl 1 = 0#8)

/-- The exact sum of the first `p` payload bytes (R341). -/
def payloadSum (pl : Vector Byte Config.plSize) (p : Nat) : Nat :=
  ((List.range p).map fun k => (bufRead pl k).toNat).sum

/-- `FillExhaustive(pl, P)`: the sum of the payload bytes is 0 (R341). -/
def fillExhaustive (pl : Vector Byte Config.plSize) (p : Nat) : Bool := decide (payloadSum pl p = 0)

/-- STATUS.DEC_STATE (R42). -/
def DState.bit : DState → Bool
  | .syncSearch => false
  | .codeword => true

/-- CTRL as read (R57). -/
def ctrlWord (s : State) : Word := 0#31 ++ BitVec.ofBool s.run

/-- STATUS as read, reserved bits 0 (R63). -/
def statusWord (s : State) : Word :=
  0#8 ++ s.last.failMask ++ 0#3
    ++ BitVec.ofBool s.sticky.cfgErr ++ BitVec.ofBool s.sticky.cmdErr ++ BitVec.ofBool s.sticky.lenErr
    ++ BitVec.ofBool s.sticky.msgErr ++ BitVec.ofBool s.sticky.uncorr ++ 0#1
    ++ BitVec.ofBool s.last.valid ++ BitVec.ofBool s.last.fillExh ++ BitVec.ofBool s.last.fillFast
    ++ BitVec.ofBool s.last.ok ++ BitVec.ofBool s.enc.pending ++ BitVec.ofBool s.enc.started
    ++ BitVec.ofBool s.dec.dstate.bit

/-- DEC_POS as read (R65). -/
def decPosWord (s : State) : Word := 0#5 ++ s.dec.bytecnt ++ 0#13 ++ s.dec.bitcnt

end Machine

end Sys2Proof
end

