-- ==== Sys2Proof/Syntax.lean ====
section
/-! DEFINITION. The commands of the core as syntax, one constructor per row of spec/opcode_table.json
(spec/30_encoding.md R137), and the names of the control and status registers (spec/10_state.md R56). -/

namespace Sys2Proof

/-- A command, the unit of execution (spec/00_scope.md R18). -/
inductive Instr where
  /-- NOP, do nothing (R400). -/
  | nop
  /-- DBIT, feed the bit `b` to the decoder (R201). -/
  | dbit (b : Bool)
  /-- DBATCH, feed the `n` low bits of `d` to the decoder, the highest of them first (R202, R133). `n` is the
  batch length `N = NM1 + 1`. -/
  | dbatch (n : Nat) (d : BitVec 16)
  /-- EBYTE, give the encoder the payload byte `b` (R251). -/
  | ebyte (b : Byte)
  /-- EMSG, queue the message built so far (R254). -/
  | emsg
  /-- EINVOKE, one encoder invocation (R255). -/
  | einvoke
  /-- CSRR, read the register at address `a` (R401). -/
  | csrr (a : BitVec 8)
  /-- CSRW, write `v`, the whole operand word, to the register at address `a` (R402). -/
  | csrw (a : BitVec 8) (v : Word)
  /-- CNTCLR, clear the frame counters (R403). -/
  | cntclr
  /-- REINIT, explicit reinitialization (R404). -/
  | reinit
deriving DecidableEq, Repr

/-- The assigned control and status registers, in address order (R56). -/
inductive Csr where
  | ctrl
  | decCfg
  | encCfg
  | syncWord
  | status
  | decPos
  | shiftReg
  | lastCorr
  | framesRx
  | framesDec
  | subframesDec
  | fillDec
  | framesTx
  | encCount
  | params
deriving DecidableEq, Repr

/-- A pseudo-command of the assembler (R143). -/
inductive Pseudo where
  | dbyte (b : Byte)
  | dhalf (h : BitVec 16)
  | dword (w : Word)
  | dmarker
  | run
  | stop
  | clrerr
deriving DecidableEq, Repr

end Sys2Proof
end

