-- ==== Sys2Proof/WellFormed.lean ====
section
/-! DEFINITION. Which commands have an encoding (spec/30_encoding.md R132, R133): every field is as wide as
its format gives it, and the batch length of DBATCH lies in 1 to 16. Which commands the assembler accepts
(R142) is narrower and stands beside it. -/

namespace Sys2Proof

/-- A command has an encoding: its batch length is `NM1 + 1` for a 4-bit `NM1` (R133). The other operands
have their field's width by type (R134, R135). -/
def Instr.wellFormed : Instr → Bool
  | .nop => true
  | .dbit _ => true
  | .dbatch n _ => decide (1 ≤ n) && decide (n ≤ 16)
  | .ebyte _ => true
  | .emsg => true
  | .einvoke => true
  | .csrr _ => true
  | .csrw _ _ => true
  | .cntclr => true
  | .reinit => true

/-- The assembler accepts the command: the operand ranges of R142. It refuses a DBATCH whose bits above the
batch length are not 0, which the core itself ignores (R133). -/
def Instr.assemblable : Instr → Bool
  | .nop => true
  | .dbit _ => true
  | .dbatch n d => decide (1 ≤ n) && decide (n ≤ 16) && decide (d.toNat < 2 ^ n)
  | .ebyte _ => true
  | .emsg => true
  | .einvoke => true
  | .csrr _ => true
  | .csrw _ _ => true
  | .cntclr => true
  | .reinit => true

end Sys2Proof
end

