-- ==== Sys2Proof/Decode.lean ====
section
/-! DEFINITION. The command decoder, total on every transaction and rejecting by name (spec/30_encoding.md
R131 to R141, R144), and after it the encoder. -/

namespace Sys2Proof

/-- The assigned values of the field `OP` (R131, R137). -/
inductive Opcode where
  | nop
  | dbit
  | dbatch
  | ebyte
  | emsg
  | einvoke
  | csrr
  | csrw
  | cntclr
  | reinit
deriving DecidableEq, Repr

/-- Why a command word is illegal. -/
inductive DecodeError where
  /-- `OP` is 0xA to 0xF (R139). -/
  | reservedOp
  /-- A must-be-zero bit of an assigned row is 1 (R138). -/
  | mustBeZero
deriving DecidableEq, Repr

/-- The command that a value of `OP` selects; 0xA to 0xF are reserved (R131, R137, R139). -/
def Opcode.ofField (f : BitVec 4) : Option Opcode :=
  match f.toNat with
  | 0 => some .nop
  | 1 => some .dbit
  | 2 => some .dbatch
  | 3 => some .ebyte
  | 4 => some .emsg
  | 5 => some .einvoke
  | 6 => some .csrr
  | 7 => some .csrw
  | 8 => some .cntclr
  | 9 => some .reinit
  | _ => none

/-- The column "match" of R137. -/
def Opcode.matchWord : Opcode → Word
  | .nop => 0x00000000#32
  | .dbit => 0x10000000#32
  | .dbatch => 0x20000000#32
  | .ebyte => 0x30000000#32
  | .emsg => 0x40000000#32
  | .einvoke => 0x50000000#32
  | .csrr => 0x60000000#32
  | .csrw => 0x70000000#32
  | .cntclr => 0x80000000#32
  | .reinit => 0x90000000#32

/-- The column "mask" of R137: the bits that are not operand fields of the row's format (R132). -/
def Opcode.maskWord : Opcode → Word
  | .nop => 0xFFFFFFFF#32
  | .dbit => 0xFFFFFFFE#32
  | .dbatch => 0xF0FF0000#32
  | .ebyte => 0xFFFFFF00#32
  | .emsg => 0xFFFFFFFF#32
  | .einvoke => 0xFFFFFFFF#32
  | .csrr => 0xFFFFFF00#32
  | .csrw => 0xFFFFFF00#32
  | .cntclr => 0xFFFFFFFF#32
  | .reinit => 0xFFFFFFFF#32

/-- The operands of a legal word, field by field (R132 to R135). `wdata` is read only by CSRW (R130). -/
def Opcode.operands (op : Opcode) (cmd wdata : Word) : Instr :=
  match op with
  | .nop => .nop
  | .dbit => .dbit (cmd.getLsbD 0)
  | .dbatch => .dbatch ((cmd.extractLsb' 24 4).toNat + 1) (cmd.extractLsb' 0 16)
  | .ebyte => .ebyte (cmd.extractLsb' 0 8)
  | .emsg => .emsg
  | .einvoke => .einvoke
  | .csrr => .csrr (cmd.extractLsb' 0 8)
  | .csrw => .csrw (cmd.extractLsb' 0 8) wdata
  | .cntclr => .cntclr
  | .reinit => .reinit

/-- The command decoder (R137, R144): every transaction is a command of exactly one row, or illegal (R141). -/
def decode (cmd wdata : Word) : Except DecodeError Instr :=
  match Opcode.ofField (cmd.extractLsb' 28 4) with
  | none => .error .reservedOp
  | some op => if cmd &&& op.maskWord = op.matchWord then .ok (op.operands cmd wdata) else .error .mustBeZero

/-- The command word and the operand word of a transaction whose 64 bits are the number `w`: the command
word is the first word, so bits 31 to 0, and the operand word bits 63 to 32 (log 12). Bits above `nbits`
are 0. -/
def transactionOf (nbits w : Nat) : Word × Word :=
  let x := w % 2 ^ nbits
  (BitVec.ofNat 32 x, BitVec.ofNat 32 (x / 2 ^ 32))

/-- The instruction the decoder reads from the bits `w` of an opcode-table row of `nbits` bits. -/
def decodeTableWord (nbits w : Nat) : Option Instr :=
  match decode (transactionOf nbits w).1 (transactionOf nbits w).2 with
  | .ok i => some i
  | .error _ => none

/-! ### The encoder -/

/-- The row of R137 a command belongs to. -/
def Instr.opcode : Instr → Opcode
  | .nop => .nop
  | .dbit _ => .dbit
  | .dbatch _ _ => .dbatch
  | .ebyte _ => .ebyte
  | .emsg => .emsg
  | .einvoke => .einvoke
  | .csrr _ => .csrr
  | .csrw _ _ => .csrw
  | .cntclr => .cntclr
  | .reinit => .reinit

/-- The operand fields of a command in their places of the command word, every other bit 0 (R132 to R135). -/
def Instr.fieldBits : Instr → Word
  | .nop => 0#32
  | .dbit b => 0#31 ++ BitVec.ofBool b
  | .dbatch n d => 0#4 ++ BitVec.ofNat 4 (n - 1) ++ 0#8 ++ d
  | .ebyte b => 0#24 ++ b
  | .emsg => 0#32
  | .einvoke => 0#32
  | .csrr a => 0#24 ++ a
  | .csrw a _ => 0#24 ++ a
  | .cntclr => 0#32
  | .reinit => 0#32

/-- The operand word of a command: CSRW's data; every other command assembles with 0 (R135, R142). -/
def Instr.operandWord : Instr → Word
  | .csrw _ v => v
  | .nop | .dbit _ | .dbatch _ _ | .ebyte _ | .emsg | .einvoke | .csrr _ | .cntclr | .reinit => 0#32

/-- The transaction of a command: its command word and its operand word (R130, R132, R137). -/
def encode (i : Instr) : Word × Word :=
  (i.opcode.matchWord ||| i.fieldBits, i.operandWord)

end Sys2Proof
end

