-- ==== Sys2Proof/Machine/Operands.lean ====
section
/-! DEFINITION. Operand forms: the bits a batch feeds (spec/30_encoding.md R133), the register an address
names (spec/10_state.md R55, R56, R71), and the layouts of the configuration registers (R58, R60). -/

namespace Sys2Proof

namespace Machine

/-- The bits that DBATCH feeds, in order: `D[N-1], D[N-2], …, D[0]` (R133, R202). -/
def batchBits (n : Nat) (d : BitVec 16) : List Bool :=
  (List.range n).map fun k => d.getLsbD (n - 1 - k)

/-- The assigned register at an address; 0x0F to 0xFF are reserved (R56, R71). -/
def csrAt (a : BitVec 8) : Option Csr :=
  match a.toNat with
  | 0x00 => some .ctrl
  | 0x01 => some .decCfg
  | 0x02 => some .encCfg
  | 0x03 => some .syncWord
  | 0x04 => some .status
  | 0x05 => some .decPos
  | 0x06 => some .shiftReg
  | 0x07 => some .lastCorr
  | 0x08 => some .framesRx
  | 0x09 => some .framesDec
  | 0x0A => some .subframesDec
  | 0x0B => some .fillDec
  | 0x0C => some .framesTx
  | 0x0D => some .encCount
  | 0x0E => some .params
  | _ => none

/-- A depth is legal: 1 to `P_MAX_I` (R58, R60). -/
def legalDepth (P : Params) (d : BitVec 4) : Bool := decide (1 ≤ d.toNat) && decide (d.toNat ≤ P.pMaxI)

/-- DEC_CFG as read: the fields in their places, reserved bits 0 (R58, R73). -/
def DecCfg.word (c : DecCfg) : Word :=
  0#16 ++ c.depth ++ 0#2 ++ BitVec.ofBool c.dual ++ BitVec.ofBool c.dscrEn ++ BitVec.ofBool c.ilvEn
    ++ BitVec.ofBool c.rsEn ++ c.t

/-- The fields of DEC_CFG taken from a written word, reserved bits dropped (R59). -/
def DecCfg.ofWord (w : Word) : DecCfg :=
  { t := w.extractLsb' 0 6
    rsEn := w.getLsbD 6
    ilvEn := w.getLsbD 7
    dscrEn := w.getLsbD 8
    dual := w.getLsbD 9
    depth := w.extractLsb' 12 4 }

/-- ENC_CFG as read: the fields in their places, reserved bits 0 (R60, R73). -/
def EncCfg.word (c : EncCfg) : Word :=
  c.idleGap ++ c.depth ++ 0#5 ++ BitVec.ofBool c.tail ++ BitVec.ofBool c.idleEn ++ BitVec.ofBool c.msgMode
    ++ BitVec.ofBool c.dual ++ BitVec.ofBool c.scrEn ++ BitVec.ofBool c.ilvEn ++ BitVec.ofBool c.rsEn

/-- The fields of ENC_CFG taken from a written word, reserved bits dropped (R61). -/
def EncCfg.ofWord (w : Word) : EncCfg :=
  { rsEn := w.getLsbD 0
    ilvEn := w.getLsbD 1
    scrEn := w.getLsbD 2
    dual := w.getLsbD 3
    msgMode := w.getLsbD 4
    idleEn := w.getLsbD 5
    tail := w.getLsbD 6
    depth := w.extractLsb' 12 4
    idleGap := w.extractLsb' 16 16 }

end Machine

end Sys2Proof
end

