-- ==== Sys2Proof/Machine/Parameters.lean ====
section
/-! DEFINITION. The implementation parameters of spec/00_scope.md R8 at this hardware's values. -/

namespace Sys2Proof

namespace Machine

/-- This hardware's values of the parameters (R8): depths up to 8, 32-bit counters, a 16-bit byte count, the
default cover sequence (log 8), the default marker (log 9), and the engine this core is wired to (log 5). -/
def thisCore : Params :=
  { pMaxI := Config.pMaxI
    cntWidth := Config.cntWidth
    ecntWidth := Config.ecntWidth
    cover := defaultCover
    syncReset := Config.syncReset
    engine := Config.rsEngine
    pMaxI_legal := by decide
    cntWidth_legal := by decide
    ecntWidth_legal := by decide }

end Machine

end Sys2Proof
end

