-- ==== Sys2Proof/Machine/Control.lean ====
section
/-! DEFINITION. The control commands (spec/46_control_commands.md) and the read values and write actions of
the control and status registers (spec/10_state.md R57 to R73). -/

namespace Sys2Proof

namespace Machine

/-! ### Read values (R401) -/

/-- The read value of an assigned register (R57 to R70). -/
def readCsr (P : Params) (r : Csr) (s : State) : Word :=
  match r with
  | .ctrl => ctrlWord s
  | .decCfg => s.decCfg.word
  | .encCfg => s.encCfg.word
  | .syncWord => s.syncWord
  | .status => statusWord s
  | .decPos => decPosWord s
  | .shiftReg => s.dec.sr
  | .lastCorr => s.last.corr
  | .framesRx => s.counters.framesReceived
  | .framesDec => s.counters.framesDecoded
  | .subframesDec => s.counters.subframesDecoded
  | .fillDec => s.counters.fillFramesDecoded
  | .framesTx => s.counters.framesTransmitted
  | .encCount => 0#16 ++ s.enc.ecount
  | .params => 0#28 ++ BitVec.ofNat 4 P.pMaxI

/-- `Read(A)`: a reserved address reads 0 (R71, R401). -/
def csrRead (P : Params) (a : BitVec 8) (s : State) : Word :=
  match csrAt a with
  | some r => readCsr P r s
  | none => 0#32

/-! ### Write actions (R402) -/

/-- CTRL: the rising edge of RUN runs DatapathInit; every other write just stores RUN (R57). -/
def writeCtrl (v : Word) (s : State) : State :=
  if !s.run && v.getLsbD 0 then (datapathInit s).withRun true else s.withRun (v.getLsbD 0)

/-- DEC_CFG: rejected while RUN = 1, then rejected for an illegal depth, else stored (R59, R509). -/
def writeDecCfg (P : Params) (v : Word) (s : State) : State :=
  if s.run then raise .configRejected s
  else if legalDepth P (v.extractLsb' 12 4) then s.withDecCfg (DecCfg.ofWord v)
  else raise .configRejected s

/-- ENC_CFG: rejected while RUN = 1, then rejected for an illegal depth, else stored (R61, R509). -/
def writeEncCfg (P : Params) (v : Word) (s : State) : State :=
  if s.run then raise .configRejected s
  else if legalDepth P (v.extractLsb' 12 4) then s.withEncCfg (EncCfg.ofWord v)
  else raise .configRejected s

/-- SYNC_WORD: rejected while RUN = 1, else stored (R62). -/
def writeSyncWord (v : Word) (s : State) : State :=
  if s.run then raise .configRejected s else s.withSyncWord v

/-- STATUS: write 1 to clear a sticky bit (R64). -/
def writeStatus (v : Word) (s : State) : State := s.withSticky (s.sticky.clear v)

/-- The write action of an assigned register; a read-only register ignores the write (R72). -/
def writeCsr (P : Params) (r : Csr) (v : Word) (s : State) : State :=
  match r with
  | .ctrl => writeCtrl v s
  | .decCfg => writeDecCfg P v s
  | .encCfg => writeEncCfg P v s
  | .syncWord => writeSyncWord v s
  | .status => writeStatus v s
  | .decPos | .shiftReg | .lastCorr | .framesRx | .framesDec | .subframesDec | .fillDec | .framesTx
  | .encCount | .params => s

/-- The write action at an address; a reserved address ignores the write (R71). -/
def csrWrite (P : Params) (a : BitVec 8) (v : Word) (s : State) : State :=
  match csrAt a with
  | some r => writeCsr P r v s
  | none => s

/-! ### The control commands, legal at any value of RUN (R145) -/

/-- The effect of NOP (R400). -/
def nopEffect (s : State) : State := respond 0#32 s

/-- The effect of CSRR: the response is the register's value; a read has no other effect (R103, R401). -/
def csrrEffect (P : Params) (a : BitVec 8) (s : State) : State := respond (csrRead P a s) s

/-- The effect of CSRW (R402). -/
def csrwEffect (P : Params) (a : BitVec 8) (v : Word) (s : State) : State := respond 0#32 (csrWrite P a v s)

/-- The effect of CNTCLR (R403). -/
def cntclrEffect (s : State) : State := respond 0#32 (counterClear s)

/-- The effect of REINIT: the datapath, the counters, the results and the sticky bits; the configuration and RUN
keep their values (R404). -/
def reinitEffect (s : State) : State :=
  respond 0#32 ((resultClear (counterClear (datapathInit s))).withSticky Sticky.reset)

/-- NOP (R400). -/
def execNop (s : State) : Host.Outcome State Fault Refusal := .next (nopEffect s)

/-- CSRR (R401). -/
def execCsrr (a : BitVec 8) (s : State) : Host.Outcome State Fault Refusal := .next (csrrEffect thisCore a s)

/-- CSRW (R402). -/
def execCsrw (a : BitVec 8) (v : Word) (s : State) : Host.Outcome State Fault Refusal :=
  .next (csrwEffect thisCore a v s)

/-- CNTCLR (R403). -/
def execCntclr (s : State) : Host.Outcome State Fault Refusal := .next (cntclrEffect s)

/-- REINIT (R404). -/
def execReinit (s : State) : Host.Outcome State Fault Refusal := .next (reinitEffect s)

end Machine

end Sys2Proof
end

