-- ==== Sys2Proof/Machine/Interleave.lean ====
section
/-! DEFINITION. The interleave address generator (spec/42_interleave.md): one address function shared by the
decoder and the encoder, and the two loops that move a block out of a buffer and into one. -/

namespace Sys2Proof

namespace Machine

/-- The addressing mode (R16). -/
inductive Layout where
  | ilv
  | contig
deriving DecidableEq, Repr

/-- The mode a configuration bit selects, 1 = interleaved (R16, R301). -/
def Layout.ofBit (b : Bool) : Layout := if b then .ilv else .contig

/-- `pos(mode, n, blen, i, j)`: where byte `j` of sub-block `i` lies in the buffer (R300). -/
def pos (mode : Layout) (n blen i j : Nat) : Nat :=
  match mode with
  | .ilv => i + j * n
  | .contig => i * blen + j

/-- `extract` of a whole block: `blk[j] = buf[pos(mode, n, blen, i, j)]` for `j` in `[0, blen)` (R217, R303). -/
def extractBlock {m : Nat} (mode : Layout) (n blen i : Nat) (buf : Vector Byte m) : Vector Byte blen :=
  Vector.ofFn fun j => bufRead buf (pos mode n blen i j)

/-- `insert` of a block's first `blen` bytes: `buf[pos(mode, n, blen, i, j)] <- blk[j]` for `j = 0, 1, …,
blen - 1` in that order (R219, R256, R303). -/
def insertBlock {m b : Nat} (mode : Layout) (n blen i : Nat) (blk : Vector Byte b) (buf : Vector Byte m) :
    Vector Byte m :=
  (List.range blen).foldl (fun acc j => bufWrite acc (pos mode n blen i j) (bufRead blk j)) buf

end Machine

end Sys2Proof
end

