-- ==== Sys2Proof/Machine/RsGlue.lean ====
section
/-! DEFINITION. The glue to the external Reed-Solomon engine (spec/45_rs_codec_control.md): when it is
called, with what, and how its answer is used. -/

namespace Sys2Proof

namespace Machine

/-- What the decoder has of one sub-block after step 3 of the decode protocol (R218, R366). -/
inductive BlockOutcome where
  /-- The engine was not called: the block is used as extracted, the outcome is success (R366). -/
  | bypassed (blk : Block255)
  /-- The engine reported the uncorrectable-failure signal: the block is unchanged (R361). -/
  | failed (blk : Block255)
  /-- The engine corrected `count` errors and gave the block (R361). -/
  | corrected (count : Nat) (blk : Block255)
deriving DecidableEq, Repr

/-- Step 3 of the decode protocol for one block (R218, R361, R363, R364, R366). -/
def rsDecodeCall (e : RsEngine) (rsEn dual : Bool) (blk : Block255) : BlockOutcome :=
  if rsEn then
    match e.decode blk dual with
    | none => .failed blk
    | some (c, blk') => .corrected c blk'
  else .bypassed blk

/-- The block the decoder goes on with (R218, R219). -/
def BlockOutcome.block : BlockOutcome → Block255
  | .bypassed blk => blk
  | .failed blk => blk
  | .corrected _ blk => blk

/-- The sub-block's outcome is success (R218, R366). -/
def BlockOutcome.ok : BlockOutcome → Bool
  | .bypassed _ => true
  | .failed _ => false
  | .corrected _ _ => true

/-- The sub-block counts into `subframesDecoded` (R218, R366). -/
def BlockOutcome.counted : BlockOutcome → Bool
  | .bypassed _ => false
  | .failed _ => false
  | .corrected _ _ => true

/-- What the sub-block adds to the corrected-error count (R218, R366, R368). -/
def BlockOutcome.count : BlockOutcome → Nat
  | .bypassed _ => 0
  | .failed _ => 0
  | .corrected c _ => c

/-- The 32 bytes that follow the data of an encoded block: the engine's parity, or zeros (R258, R362, R363). -/
def rsParityCall (e : RsEngine) (rsEn dual : Bool) (data : Data223) : Parity32 :=
  if rsEn then e.parity data dual else Vector.replicate Config.rsP 0#8

/-- The whole encoded block: bytes 0 to 222 the data, bytes 223 to 254 the parity (R362, C5). -/
def encodedBlock (e : RsEngine) (rsEn dual : Bool) (data : Data223) : Block255 :=
  data ++ rsParityCall e rsEn dual data

end Machine

end Sys2Proof
end

