-- ==== Sys2Proof/Machine/Decoder.lean ====
section
/-! DEFINITION. The bit synchronizer (spec/40_bit_synchronizer.md): the per-bit step, the marker search, the
codeword accumulation, the decode protocol, and the commands DBIT and DBATCH. What depends on a parameter of R8
takes it as an argument; the commands pass this hardware's values, `thisCore`. -/

namespace Sys2Proof

namespace Machine

/-- The depth `n = DEC_CFG.DEPTH` (R10). -/
def decDepth (s : State) : Nat := s.decCfg.depth.toNat

/-- The codeword length `L = CWLEN(n)` of the decoder. -/
def decCwLen (s : State) : Nat := Config.cwLen (decDepth s)

/-- The payload length `P = PLEN(n)` of the decoder. -/
def decPLen (s : State) : Nat := Config.pLen (decDepth s)

/-- The decoder's addressing mode (R301). -/
def decLayout (s : State) : Layout := Layout.ofBit s.decCfg.ilvEn

/-! ### The decode protocol (R215) -/

/-- What one decode attempt carries from sub-block to sub-block: `ok`, `fmask`, `corr`, the payload buffer,
and the counter `subframesDecoded` (R215). -/
structure Attempt where
  ok : Bool
  failMask : BitVec 8
  corr : Word
  subframes : BitVec Config.cntWidth
  pl : Vector Byte Config.plSize
deriving DecidableEq, Repr

/-- Step 1: descramble the whole codeword in place if enabled (R216). -/
def descrambled (C : Cover) (s : State) : Vector Byte Config.cwSize :=
  if s.decCfg.dscrEn then scramble C (decCwLen s) s.dec.cw else s.dec.cw

/-- Steps 2 and 3 for sub-block `i` of the codeword `cw`: extract the block and hand it to the engine (R217,
R218). -/
def subBlockOutcome (e : RsEngine) (s : State) (cw : Vector Byte Config.cwSize) (i : Nat) : BlockOutcome :=
  rsDecodeCall e s.decCfg.rsEn s.decCfg.dual (extractBlock (decLayout s) (decDepth s) Config.rsN i cw)

/-- Steps 2 to 4 for sub-block `i`: all sub-blocks are processed, whatever earlier ones gave (R217 to R219). -/
def processBlock (P : Params) (s : State) (cw : Vector Byte Config.cwSize) (a : Attempt) (i : Nat) :
    Attempt :=
  let o := subBlockOutcome P.engine s cw i
  { ok := a.ok && o.ok
    failMask := if o.ok then a.failMask else a.failMask ||| (1#8 <<< i)
    corr := a.corr + BitVec.ofNat 32 o.count
    subframes := if o.counted then inc P.cntWidth a.subframes else a.subframes
    pl := insertBlock (decLayout s) (decDepth s) Config.rsK i o.block a.pl }

/-- Steps 2 to 4 over all sub-blocks, in order `i = 0, 1, …, n - 1` (R215, R364). -/
def runAttempt (P : Params) (s : State) (cw : Vector Byte Config.cwSize) : Attempt :=
  (List.range (decDepth s)).foldl (processBlock P s cw)
    { ok := true, failMask := 0#8, corr := 0#32, subframes := s.counters.subframesDecoded, pl := s.dec.pl }

/-- The counters after an attempt (R218, R220, R221, R224). -/
def attemptCounters (P : Params) (a : Attempt) (fast : Bool) (c : Counters) : Counters :=
  { c with
    framesDecoded := if a.ok then inc P.cntWidth c.framesDecoded else c.framesDecoded
    subframesDecoded := a.subframes
    fillFramesDecoded := if fast then inc P.cntWidth c.fillFramesDecoded else c.fillFramesDecoded }

/-- Steps 5 and 6, and the result registers, of an attempt `a` on the descrambled codeword `cw` (R220, R221,
R223). -/
def concludeAttempt (P : Params) (cw : Vector Byte Config.cwSize) (a : Attempt) (s : State) : State :=
  let fast := fillFast a.pl
  let s := s.withDec { s.dec with cw := cw, pl := a.pl }
  let s := s.withCounters (attemptCounters P a fast s.counters)
  let s := if a.ok then s else raise .uncorrectableBlock s
  let s := if a.ok && !fast then publish (a.pl.toList.take (decPLen s)) s else s
  s.withLast
    { valid := true, ok := a.ok, fillFast := fast, fillExh := fillExhaustive a.pl (decPLen s)
      failMask := a.failMask, corr := a.corr }

/-- `DecodeFrame()`, run once per full codeword (R215). -/
def decodeFrame (P : Params) (s : State) : State :=
  concludeAttempt P (descrambled P.cover s) (runAttempt P s (descrambled P.cover s)) s

/-! ### The per-bit step (R203) -/

/-- A bit enters the shift register at bit 0, older bits move toward bit 31 (R43, R104). -/
def shiftIn (sr : Word) (b : Bool) : Word := (sr <<< 1) ||| BitVec.zeroExtend 32 (BitVec.ofBool b)

/-- `DeclareSync()`: one more frame received, both position counters 0, the shift register kept (R206). -/
def declareSync (P : Params) (s : State) : State :=
  (s.withCounters { s.counters with framesReceived := inc P.cntWidth s.counters.framesReceived }).withDec
    { s.dec with bitcnt := 0#3, bytecnt := 0#11, dstate := .codeword }

/-- `StoreByte()`: the last 8 bits become the next codeword byte (R208). -/
def storeByte (s : State) : State :=
  s.withDec
    { s.dec with
      cw := bufWrite s.dec.cw s.dec.bytecnt.toNat (s.dec.sr.extractLsb' 0 8)
      bytecnt := s.dec.bytecnt + 1#11
      bitcnt := 0#3 }

/-- The bit after its shift, in SyncSearch: compare with the primary marker only (R204, R205); a comparison
that fails is SyncNotFound, which records nothing (R502). -/
def searchBit (P : Params) (s : State) : State :=
  if markerFound s.dec.sr s.syncWord s.decCfg.t then declareSync P s else raise .syncNotFound s

/-- The bit after its shift, in Codeword: every eighth bit stores a byte, and the byte that fills the
codeword fires the decode attempt and the return to SyncSearch (R203, R209, R211, R222). -/
def codewordBit (P : Params) (s : State) : State :=
  if s.dec.bitcnt.toNat + 1 = 8 then
    let s := storeByte s
    if s.dec.bytecnt.toNat = decCwLen s then enterSyncSearch (decodeFrame P s) else s
  else s.withDec { s.dec with bitcnt := s.dec.bitcnt + 1#3 }

/-- `BitStep(b)`, the whole effect of one decoder bit (R203). -/
def bitStep (P : Params) (s : State) (b : Bool) : State :=
  let s := s.withDec { s.dec with sr := shiftIn s.dec.sr b }
  match s.dec.dstate with
  | .syncSearch => searchBit P s
  | .codeword => codewordBit P s

/-- Bits fed one after another (R202). -/
def bitSteps (P : Params) (s : State) (bs : List Bool) : State := bs.foldl (bitStep P) s

/-! ### The decoder's commands -/

/-- The effect of DBIT (R201). -/
def dbitEffect (P : Params) (b : Bool) (s : State) : State :=
  dataCommand (fun s => respond 0#32 (bitStep P s b)) s

/-- The effect of DBATCH (R202). -/
def dbatchEffect (P : Params) (n : Nat) (d : BitVec 16) (s : State) : State :=
  dataCommand (fun s => respond 0#32 (bitSteps P s (batchBits n d))) s

/-- DBIT (R201). -/
def execDbit (b : Bool) (s : State) : Host.Outcome State Fault Refusal := .next (dbitEffect thisCore b s)

/-- DBATCH (R202). -/
def execDbatch (n : Nat) (d : BitVec 16) (s : State) : Host.Outcome State Fault Refusal :=
  .next (dbatchEffect thisCore n d s)

end Machine

end Sys2Proof
end

