-- ==== Sys2Proof/Machine/FrameAssembler.lean ====
section
/-! DEFINITION. The frame assembler (spec/41_frame_assembler.md): the assembly of one frame and the commands
EBYTE, EMSG and EINVOKE. -/

namespace Sys2Proof

namespace Machine

/-- The depth `m = ENC_CFG.DEPTH` (R10). -/
def encDepth (s : State) : Nat := s.encCfg.depth.toNat

/-- The codeword length `LE = CWLEN(m)` of the encoder. -/
def encCwLen (s : State) : Nat := Config.cwLen (encDepth s)

/-- The payload length `PE = PLEN(m)` of the encoder. -/
def encPLen (s : State) : Nat := Config.pLen (encDepth s)

/-- The encoder's addressing mode (R301). -/
def encLayout (s : State) : Layout := Layout.ofBit s.encCfg.ilvEn

/-- The marker bytes `M` of a sync word, most significant first (R106, R260). -/
def markerBytes (w : Word) : List Byte :=
  [w.extractLsb' 24 8, w.extractLsb' 16 8, w.extractLsb' 8 8, w.extractLsb' 0 8]

/-- The 223 data bytes of sub-block `i` of a payload (R257). -/
def payloadBlock (s : State) (p : List Byte) (i : Nat) : Data223 :=
  Vector.ofFn fun j => p.getD (pos (encLayout s) (encDepth s) Config.rsK i j) 0#8

/-- The encoded block of sub-block `i`: data and parity (R256, R257, R258). -/
def payloadEncodedBlock (e : RsEngine) (s : State) (p : List Byte) (i : Nat) : Block255 :=
  encodedBlock e s.encCfg.rsEn s.encCfg.dual (payloadBlock s p i)

/-- Step 3: the codeword with every encoded block inserted, in order `i = 0, 1, …, m - 1` (R256, R257). -/
def assembledCodeword (e : RsEngine) (s : State) (p : List Byte) : Vector Byte Config.cwSize :=
  (List.range (encDepth s)).foldl
    (fun ecw i => insertBlock (encLayout s) (encDepth s) Config.rsN i (payloadEncodedBlock e s p i) ecw)
    (Vector.replicate Config.cwSize 0#8)

/-- Steps 3 and 4: the codeword bytes `ecw[0 .. LE-1]`, scrambled if enabled (R256, R259). -/
def encodedCodeword (P : Params) (s : State) (p : List Byte) : List Byte :=
  let ecw := assembledCodeword P.engine s p
  (if s.encCfg.scrEn then scramble P.cover (encCwLen s) ecw else ecw).toList.take (encCwLen s)

/-- Step 5, `Assemble(ecw)`: where the marker goes (R261, R262). -/
def assemble (tail started : Bool) (marker ecw : List Byte) : List Byte :=
  if !tail then marker ++ ecw
  else if !started then marker ++ ecw ++ marker
  else ecw ++ marker

/-- The frame of a payload: steps 3 to 5 (R256). -/
def frameOf (P : Params) (s : State) (p : List Byte) : List Byte :=
  assemble s.encCfg.tail s.enc.started (markerBytes s.syncWord) (encodedCodeword P s p)

/-- `EncodeFrame(p)`: one whole frame is appended to `tx`, counted, and `started` is set (R256, R263, R265). -/
def encodeFrame (P : Params) (p : List Byte) (s : State) : State :=
  let s := emitTx (frameOf P s p) s
  let s := s.withCounters { s.counters with framesTransmitted := inc P.cntWidth s.counters.framesTransmitted }
  s.withEnc { s.enc with started := true }

/-- The payload unit in the staging buffer, `ebuf[0 .. PE-1]` (R251, R255). -/
def stagedPayload (s : State) : List Byte := s.enc.ebuf.toList.take (encPLen s)

/-! ### EBYTE (R251) -/

/-- The encoder with one more payload byte in the staging buffer (R251). -/
def Encoder.store (P : Params) (c : Encoder) (b : Byte) : Encoder :=
  { c with ebuf := bufWrite c.ebuf c.ecount.toNat b, ecount := inc P.ecntWidth c.ecount }

/-- EBYTE in stream mode: the byte that completes a payload unit emits its frame (R251, R252). -/
def streamByte (P : Params) (b : Byte) (s : State) : State :=
  let s := s.withEnc (s.enc.store P b)
  if s.enc.ecount.toNat = encPLen s then
    let s := encodeFrame P (stagedPayload s) s
    s.withEnc { s.enc with ecount := 0#Config.ecntWidth }
  else s

/-- EBYTE in message mode: the byte is appended to the message being built; bytes beyond `PE` are counted and
not stored; a byte offered while a message is queued is dropped as an illegal command (R251, R253). -/
def messageByte (P : Params) (b : Byte) (s : State) : State :=
  if s.enc.pending then raise .illegalCommand s
  else
    s.withEnc
      { s.enc with
        ebuf := if s.enc.ecount.toNat < encPLen s then bufWrite s.enc.ebuf s.enc.ecount.toNat b else s.enc.ebuf
        ecount := sat P.ecntWidth s.enc.ecount }

/-- The effect of EBYTE (R251). -/
def byteEffect (P : Params) (b : Byte) (s : State) : State :=
  respond 0#32 (if s.encCfg.msgMode then messageByte P b s else streamByte P b s)

/-! ### EMSG (R254) -/

/-- The effect of EMSG (R254). -/
def queueEffect (s : State) : State :=
  respond 0#32
    (if !s.encCfg.msgMode || s.enc.pending then raise .illegalCommand s
     else s.withEnc { s.enc with pending := true })

/-! ### EINVOKE (R255) -/

/-- The pending-payload state cleared (R255, R263). -/
def clearPending (s : State) : State := s.withEnc { s.enc with pending := false, ecount := 0#Config.ecntWidth }

/-- The effect of EINVOKE: mode, then `pending`, then IDLE_EN or the length (R255, R264, R509). -/
def invokeEffect (P : Params) (s : State) : State :=
  respond 0#32
    (if !s.encCfg.msgMode then raise .illegalCommand s
     else if !s.enc.pending then
       (if s.encCfg.idleEn then encodeFrame P (zeros (encPLen s)) s else raise .malformedInputMessage s)
     else if s.enc.ecount.toNat ≠ encPLen s then clearPending (raise .lengthMismatch s)
     else clearPending (encodeFrame P (stagedPayload s) s))

/-! ### The encoder's commands -/

/-- The effect of EBYTE, with the check of RUN (R251, R145). -/
def ebyteEffect (P : Params) (b : Byte) (s : State) : State := dataCommand (byteEffect P b) s

/-- The effect of EMSG, with the check of RUN (R254, R145). -/
def emsgEffect (s : State) : State := dataCommand queueEffect s

/-- The effect of EINVOKE, with the check of RUN (R255, R145). -/
def einvokeEffect (P : Params) (s : State) : State := dataCommand (invokeEffect P) s

/-- EBYTE (R251). -/
def execEbyte (b : Byte) (s : State) : Host.Outcome State Fault Refusal := .next (ebyteEffect thisCore b s)

/-- EMSG (R254). -/
def execEmsg (s : State) : Host.Outcome State Fault Refusal := .next (emsgEffect s)

/-- EINVOKE (R255). -/
def execEinvoke (s : State) : Host.Outcome State Fault Refusal := .next (einvokeEffect thisCore s)

end Machine

end Sys2Proof
end

