-- ==== Sys2Proof/Machine/Dispatch.lean ====
section
/-! DEFINITION. One arm per command: what each does to the state (spec/30_encoding.md R137, R144). -/

namespace Sys2Proof

namespace Machine

def exec (i : Instr) (s : State) : Host.Outcome State Fault Refusal :=
  match i with
  | .nop => Sys2Proof.Machine.execNop s
  | .dbit b => Sys2Proof.Machine.execDbit b s
  | .dbatch n d => Sys2Proof.Machine.execDbatch n d s
  | .ebyte b => Sys2Proof.Machine.execEbyte b s
  | .emsg => Sys2Proof.Machine.execEmsg s
  | .einvoke => Sys2Proof.Machine.execEinvoke s
  | .csrr a => Sys2Proof.Machine.execCsrr a s
  | .csrw a v => Sys2Proof.Machine.execCsrw a v s
  | .cntclr => Sys2Proof.Machine.execCntclr s
  | .reinit => Sys2Proof.Machine.execReinit s

end Machine

end Sys2Proof
end

