-- ==== Sys2Proof/Machine/Port.lean ====
section
/-! DEFINITION. The command port: the core has no program counter and fetches from no memory
(spec/10_state.md R41, spec/20_memory.md R113); commands arrive on the port one at a time, each executed to
completion before the next (R109). What executes a legal command is an argument. -/

namespace Sys2Proof

namespace Machine

/-- What a legal command does. -/
abbrev Executor := Instr → State → Host.Outcome State Fault Refusal

/-- One transaction: an illegal word changes nothing but STATUS.CMD_ERR and the response, a legal one has
its command's effect (R144). -/
def transact (execute : Executor) (cmd wdata : Word) (s : State) : Host.Outcome State Fault Refusal :=
  match decode cmd wdata with
  | .ok i => execute i s
  | .error _ => .next (illegalCommand s)

/-- One input of the host: a transaction, or the reset input (R130, R600, log 3). -/
def serve (P : Params) (execute : Executor) (input : HostInput) (s : State) :
    Host.Outcome State Fault Refusal :=
  match input with
  | .command cmd wdata => transact execute cmd wdata s
  | .reset => .next (hardwareReset P s)

/-- The next input is taken from the port and served. With none pending the core waits for its next command
and nothing changes (R605, log 2). -/
def serveNext (P : Params) (execute : Executor) (s : State) : Host.Outcome State Fault Refusal :=
  match s.port with
  | [] => .next s
  | input :: rest => serve P execute input (s.withPort rest)

/-- The state with one more input, as the host's next one. -/
def State.pushInput (input : HostInput) (s : State) : State := s.withPort (input :: s.port)

end Machine

end Sys2Proof
end

