-- ==== Sys2Proof/Machine/Step.lean ====
section
/-! DEFINITION. One step of the machine: the host's next input is served (spec/20_memory.md R109). -/

namespace Sys2Proof

namespace Machine

/-- One step. -/
def step (s : State) : Host.Outcome State Fault Refusal := serveNext thisCore exec s

/-- The state with the transaction of the table bits `w` as the host's next input (log 1, log 12). -/
def State.withFetchWord (s : State) (nbits w : Nat) : State :=
  s.pushInput (.command (transactionOf nbits w).1 (transactionOf nbits w).2)

end Machine

end Sys2Proof
end

