-- ==== Sys2Proof/Machine/Parametric.lean ====
section
/-! DEFINITION. The core at any values of the implementation parameters (spec/00_scope.md R8). The machine of
Machine/Step.lean is this one at this hardware's values. -/

namespace Sys2Proof

namespace Machine

/-- The state a command gives, at any parameters: every command completes in every state (R8, R137, R500). -/
def effectAt (P : Params) (i : Instr) (s : State) : State :=
  match i with
  | .nop => nopEffect s
  | .dbit b => dbitEffect P b s
  | .dbatch n d => dbatchEffect P n d s
  | .ebyte b => ebyteEffect P b s
  | .emsg => emsgEffect s
  | .einvoke => einvokeEffect P s
  | .csrr a => csrrEffect P a s
  | .csrw a v => csrwEffect P a v s
  | .cntclr => cntclrEffect s
  | .reinit => reinitEffect s

/-- One step at any parameters. -/
def stepAt (P : Params) (s : State) : Host.Outcome State Fault Refusal :=
  serveNext P (fun i s => .next (effectAt P i s)) s

/-- The core at any parameters: its step, and its state after power-on (R8, R80). -/
def coreAt (P : Params) : Host.Core :=
  { State := State, Fault := Fault, Refusal := Refusal, step := stepAt P
    reset := State.resetWith P.syncReset }

end Machine

end Sys2Proof
end

