-- ==== Sys2Proof/Safety.lean ====
section
/-! DEFINITION. The terms claims are made in: runs of commands, the properties a proof may assume of the
engine (spec/45_rs_codec_control.md R367), the invariant of the core, which states the host cannot tell
apart, and the contents of blocks and frames byte by byte. -/

namespace Sys2Proof

/-! ### Properties of an engine a proof may assume (R367); the model assumes none of them -/

/-- `RsNoOpOnCodeword`: decoding an encoded block corrects nothing and gives it back (R367). -/
def RsEngine.NoOpOnCodeword (e : RsEngine) : Prop :=
  ∀ (d : Data223) (f : Bool),
    e.decode (Machine.encodedBlock e true f d) f = some (0, Machine.encodedBlock e true f d)

/-- In how many byte positions two blocks differ (R367). -/
def diffCount (x y : Block255) : Nat :=
  (List.range Config.rsN).countP fun j => Machine.bufRead x j != Machine.bufRead y j

/-- `RsCorrects(t)`: every block that differs from an encoded block in at most `t` positions is corrected to
it, with the number of differing positions as its count (R367). -/
def RsEngine.Corrects (e : RsEngine) (t : Nat) : Prop :=
  ∀ (d : Data223) (f : Bool) (x : Block255), diffCount x (Machine.encodedBlock e true f d) ≤ t →
    e.decode x f = some (diffCount x (Machine.encodedBlock e true f d), Machine.encodedBlock e true f d)

namespace Machine

/-! ### Commands -/

/-- The data commands (R18, R145). -/
def isData : Instr → Bool
  | .dbit _ | .dbatch _ _ | .ebyte _ | .emsg | .einvoke => true
  | .nop | .csrr _ | .csrw _ _ | .cntclr | .reinit => false

/-- The commands that feed the decoder. -/
def isDecoderCommand : Instr → Bool
  | .dbit _ | .dbatch _ _ => true
  | .nop | .ebyte _ | .emsg | .einvoke | .csrr _ | .csrw _ _ | .cntclr | .reinit => false

/-- The commands that feed the encoder. -/
def isEncoderCommand : Instr → Bool
  | .ebyte _ | .emsg | .einvoke => true
  | .nop | .dbit _ | .dbatch _ _ | .csrr _ | .csrw _ _ | .cntclr | .reinit => false

/-- How many bits a command feeds to the decoder (R201, R202). -/
def bitsFed : Instr → Nat
  | .dbit _ => 1
  | .dbatch n _ => n
  | .nop | .ebyte _ | .emsg | .einvoke | .csrr _ | .csrw _ _ | .cntclr | .reinit => 0

/-- Commands executed one after another, each to completion before the next (R109). -/
def execAll : List Instr → State → Host.Outcome State Fault Refusal
  | [], s => .next s
  | i :: is, s =>
    match exec i s with
    | .next t => execAll is t
    | .fault r => .fault r
    | .refused r => .refused r

/-- The state after commands executed one after another, at any parameters (R8, R109). -/
def applyAll (P : Params) (is : List Instr) (s : State) : State := is.foldl (fun s i => effectAt P i s) s

/-- The command the next step executes, if its input is a legal transaction. -/
def nextCommand (s : State) : Option Instr :=
  match s.port with
  | .command cmd wdata :: _ =>
    match decode cmd wdata with
    | .ok i => some i
    | .error _ => none
  | _ => none

/-- The next step serves the reset input. -/
def nextIsReset (s : State) : Bool :=
  match s.port with
  | .reset :: _ => true
  | _ => false

/-- The rows of the command table: command, match, mask, in the order of OP (R137). -/
def commandRows : List (Opcode × Word × Word) :=
  [(.nop, 0x00000000#32, 0xFFFFFFFF#32), (.dbit, 0x10000000#32, 0xFFFFFFFE#32),
    (.dbatch, 0x20000000#32, 0xF0FF0000#32), (.ebyte, 0x30000000#32, 0xFFFFFF00#32),
    (.emsg, 0x40000000#32, 0xFFFFFFFF#32), (.einvoke, 0x50000000#32, 0xFFFFFFFF#32),
    (.csrr, 0x60000000#32, 0xFFFFFF00#32), (.csrw, 0x70000000#32, 0xFFFFFF00#32),
    (.cntclr, 0x80000000#32, 0xFFFFFFFF#32), (.reinit, 0x90000000#32, 0xFFFFFFFF#32)]

/-- The state after an illegal command: CMD_ERR set, response 0, nothing else (R144, R506). -/
def turnedAway (s : State) : State := { s with sticky := { s.sticky with cmdErr := true }, rdata := 0#32 }

/-- The state after a rejected configuration write: CFG_ERR set, response 0, nothing else (R507). -/
def configRejected (s : State) : State := { s with sticky := { s.sticky with cfgErr := true }, rdata := 0#32 }

/-- A frame counter after `n` increments modulo 2 to the width `W` (R14, R48). -/
def countOn (W n : Nat) (c : BitVec Config.cntWidth) : BitVec Config.cntWidth :=
  if n = 0 then c else BitVec.ofNat Config.cntWidth ((c.toNat + n) % 2 ^ W)

/-! ### Bits and bytes on the wire (R12, R104, R105) -/

/-- The bits of a byte, most significant first (R12). -/
def byteBits (b : Byte) : List Bool := (List.range 8).map fun k => b.getLsbD (7 - k)

/-- The bits of a byte sequence, each byte most significant bit first (R12, R105). -/
def wireBits (bs : List Byte) : List Bool := bs.flatMap byteBits

/-! ### The contents of blocks byte by byte, without loops -/

/-- Byte `k` of the received codeword, descrambled if enabled (R216). -/
def receivedByte (C : Cover) (s : State) (k : Nat) : Byte :=
  if s.decCfg.dscrEn then bufRead s.dec.cw k ^^^ C (Fin.ofNat 255 k) else bufRead s.dec.cw k

/-- Where byte `j` of sub-block `i` lies, written out (R300). -/
def place (interleaved : Bool) (n blen i j : Nat) : Nat := if interleaved then i + j * n else i * blen + j

/-- Sub-block `i` of the received codeword (R217). -/
def receivedBlock (C : Cover) (s : State) (i : Nat) : Block255 :=
  Vector.ofFn fun j => receivedByte C s (place s.decCfg.ilvEn s.decCfg.depth.toNat 255 i j)

/-- What the engine answers on sub-block `i`; with RS decoding disabled it is not called, and the block counts
as received (R218, R366). -/
def blockAnswer (P : Params) (s : State) (i : Nat) : Option (Nat × Block255) :=
  if s.decCfg.rsEn then P.engine.decode (receivedBlock P.cover s i) s.decCfg.dual
  else some (0, receivedBlock P.cover s i)

/-- The block whose data bytes are copied out: the engine's, or the received one if it failed (R218, R219). -/
def blockUsed (P : Params) (s : State) (i : Nat) : Block255 :=
  match blockAnswer P s i with
  | some (_, x) => x
  | none => receivedBlock P.cover s i

/-- The payload of the received codeword: byte `place(223, i, j)` is data byte `j` of sub-block `i` (R219). -/
def IsReceivedPayload (P : Params) (s : State) (p : List Byte) : Prop :=
  p.length = s.decCfg.depth.toNat * 223 ∧
    ∀ i < s.decCfg.depth.toNat, ∀ j < 223,
      p[place s.decCfg.ilvEn s.decCfg.depth.toNat 223 i j]? = some (bufRead (blockUsed P s i) j)

/-- Data bytes of sub-block `i` of a payload (R257). -/
def sentData (c : EncCfg) (p : List Byte) (i : Nat) : Data223 :=
  Vector.ofFn fun j => p.getD (place c.ilvEn c.depth.toNat 223 i j) 0#8

/-- Byte `j` of the encoded sub-block `i` of a payload: data, then parity or zeros (R257, R258, R362). -/
def sentByte (e : RsEngine) (c : EncCfg) (p : List Byte) (i j : Nat) : Byte :=
  if j < 223 then bufRead (sentData c p i) j
  else if c.rsEn then bufRead (e.parity (sentData c p i) c.dual) (j - 223) else 0#8

/-- A list is the encoded codeword of a payload, as put on the wire (R256, R257, R259). -/
def IsSentCodeword (P : Params) (c : EncCfg) (p ecw : List Byte) : Prop :=
  ecw.length = c.depth.toNat * 255 ∧
    ∀ i < c.depth.toNat, ∀ j < 255,
      ecw[place c.ilvEn c.depth.toNat 255 i j]? =
        some (if c.scrEn
          then sentByte P.engine c p i j ^^^ P.cover (Fin.ofNat 255 (place c.ilvEn c.depth.toNat 255 i j))
          else sentByte P.engine c p i j)

/-- The four marker bytes on the wire, most significant first (R106, R260). -/
def wireMarker (w : Word) : List Byte :=
  [w.extractLsb' 24 8, w.extractLsb' 16 8, w.extractLsb' 8 8, w.extractLsb' 0 8]

/-- The wire layouts: normal mode; tail mode, first frame; tail mode, later frames (R261, R262). -/
def wireFrame (tail started : Bool) (m ecw : List Byte) : List Byte :=
  match tail, started with
  | false, _ => m ++ ecw
  | true, false => m ++ ecw ++ m
  | true, true => ecw ++ m

/-- A list is the wire frame of a payload in a state (R256 to R262). -/
def IsWireFrame (P : Params) (s : State) (p frame : List Byte) : Prop :=
  ∃ ecw, IsSentCodeword P s.encCfg p ecw ∧
    frame = wireFrame s.encCfg.tail s.enc.started (wireMarker s.syncWord) ecw

/-- The decoder is configured as the encoder is (R615). -/
def SameProfile (d : DecCfg) (c : EncCfg) : Prop :=
  d.depth = c.depth ∧ d.ilvEn = c.ilvEn ∧ d.dscrEn = c.scrEn ∧ d.dual = c.dual

/-- No register that holds only a first part of the marker is within the threshold (R610, R615). -/
def NoEarlyLock (sync : Word) (t : BitVec 6) : Prop :=
  ∀ k < 32, 1 ≤ k → t.toNat < hamming (sync >>> (32 - k)) sync

/-! ### The invariant of the core -/

/-- What holds at reset and after every step, whatever the host does. -/
structure CoreInv (s : State) : Prop where
  /-- The configured depths are legal (R59, R61, R306). -/
  decDepth : 1 ≤ s.decCfg.depth.toNat ∧ s.decCfg.depth.toNat ≤ Config.pMaxI
  encDepth : 1 ≤ s.encCfg.depth.toNat ∧ s.encCfg.depth.toNat ≤ Config.pMaxI
  /-- In SyncSearch both position counters are 0 (R44, R210). -/
  searching : s.dec.dstate = .syncSearch → s.dec.bitcnt = 0#3 ∧ s.dec.bytecnt = 0#11
  /-- The codeword buffer never overflows (R44, R45). -/
  inBuffer : s.dec.bytecnt.toNat < Config.cwSize
  /-- While running, a codeword being accumulated is not complete (R209). -/
  accumulating : s.run = true → s.dec.dstate = .codeword → s.dec.bytecnt.toNat < s.decCfg.depth.toNat * 255
  /-- While running in stream mode, the payload unit being built is not complete and nothing is queued
  (R251, R252). -/
  streaming : s.run = true → s.encCfg.msgMode = false →
    s.enc.ecount.toNat < s.encCfg.depth.toNat * 223 ∧ s.enc.pending = false
  /-- Before the first decode attempt every result register is 0 (R47, R603). -/
  noResult : s.last.valid = false → s.last = LastResult.reset
  /-- The exhaustive verdict implies the fast one (R343). -/
  verdicts : s.last.fillExh = true → s.last.fillFast = true
  /-- A frame succeeded iff no sub-block failed (R220, R223). -/
  mask : s.last.valid = true → (s.last.ok = true ↔ s.last.failMask = 0#8)
  /-- Every published message is a payload of a legal depth (R51). -/
  messages : ∀ p ∈ s.rx, ∃ n, 1 ≤ n ∧ n ≤ Config.pMaxI ∧ p.length = n * 223

/-- The five frame counters and the byte count are within the widths CNT_WIDTH and ECNT_WIDTH (R48, R49). -/
structure FitsWidths (P : Params) (s : State) : Prop where
  framesReceived : s.counters.framesReceived.toNat < 2 ^ P.cntWidth
  framesDecoded : s.counters.framesDecoded.toNat < 2 ^ P.cntWidth
  subframesDecoded : s.counters.subframesDecoded.toNat < 2 ^ P.cntWidth
  fillFramesDecoded : s.counters.fillFramesDecoded.toNat < 2 ^ P.cntWidth
  framesTransmitted : s.counters.framesTransmitted.toNat < 2 ^ P.cntWidth
  ecount : s.enc.ecount.toNat < 2 ^ P.ecntWidth

/-! ### What the host can tell -/

/-- The state with the contents of the three buffers blanked out. -/
def hideBuffers (s : State) : State :=
  { s with
    dec := { s.dec with cw := Vector.replicate Config.cwSize 0#8, pl := Vector.replicate Config.plSize 0#8 }
    enc := { s.enc with ebuf := Vector.replicate Config.plSize 0#8 } }

/-- Two states differ at most in buffer bytes that no rule reads before writing them: while running, the
codeword bytes stored since the last sync and the payload bytes kept since the last clear agree (R45, R46,
R49, R76). -/
structure SameButDeadBytes (s t : State) : Prop where
  visible : hideBuffers s = hideBuffers t
  codeword : s.run = true → ∀ k < s.dec.bytecnt.toNat, bufRead s.dec.cw k = bufRead t.dec.cw k
  payload : s.run = true → ∀ k < s.enc.ecount.toNat, k < s.encCfg.depth.toNat * 223 →
    bufRead s.enc.ebuf k = bufRead t.enc.ebuf k

end Machine

end Sys2Proof
end

