-- ==== Sys2Proof/Certificates/Slice0/Obligations.lean ====
section
/-! DEFINITION. The statements about the core, each from numbered rules or sections of spec/. Where a
statement needs it, the depths are assumed legal, which the invariant of `EveryStepKeepsTheInvariant` gives
in every state a run reaches. -/

open Sys2Proof Sys2Proof.Machine

/-! ### Encoding -/

/-- Words written out from the formats of spec/30_encoding.md and the vectors V-ENC of
spec/95_test_vectors.md: eleven that are commands, and two that are refused. -/
def Obligations.WrittenOutWordsDecode : Prop :=
  decode 0x00000000#32 0#32 = .ok .nop ∧
  decode 0x10000001#32 0#32 = .ok (.dbit true) ∧
  decode 0x2F00FFFF#32 0#32 = .ok (.dbatch 16 0xFFFF#16) ∧
  decode 0x230000F5#32 0#32 = .ok (.dbatch 4 0x00F5#16) ∧
  decode 0x300000AB#32 0#32 = .ok (.ebyte 0xAB#8) ∧
  decode 0x40000000#32 0#32 = .ok .emsg ∧
  decode 0x50000000#32 0#32 = .ok .einvoke ∧
  decode 0x600000FF#32 0#32 = .ok (.csrr 0xFF#8) ∧
  decode 0x70000001#32 0x000021C3#32 = .ok (.csrw 0x01#8 0x000021C3#32) ∧
  decode 0x80000000#32 0#32 = .ok .cntclr ∧
  decode 0x90000000#32 0#32 = .ok .reinit ∧
  decode 0x00000001#32 0#32 = .error .mustBeZero ∧
  decode 0xA0000000#32 0#32 = .error .reservedOp

/-- R137: a word selects a command iff it matches the command's row, whatever the operand word, and no word
matches two rows. -/
def Obligations.WordSelectsItsRow : Prop :=
  (∀ row ∈ commandRows, ∀ cmd wdata : Word,
    (∃ i, decode cmd wdata = .ok i ∧ i.opcode = row.1) ↔ cmd &&& row.2.2 = row.2.1) ∧
  (∀ row ∈ commandRows, ∀ row' ∈ commandRows, ∀ cmd : Word,
    cmd &&& row.2.2 = row.2.1 → cmd &&& row'.2.2 = row'.2.1 → row = row')

/-- R134, R135, and the fields of FBAT in R132: which bits of the transaction each operand is. -/
def Obligations.OperandsAreTheirFields : Prop :=
  ∀ (cmd wdata : Word) (i : Instr), decode cmd wdata = .ok i →
    (∀ b, i = .dbit b → b = cmd.getLsbD 0) ∧
    (∀ n d, i = .dbatch n d → n = (cmd.extractLsb' 24 4).toNat + 1 ∧ d = cmd.extractLsb' 0 16) ∧
    (∀ b, i = .ebyte b → b = cmd.extractLsb' 0 8) ∧
    (∀ a, i = .csrr a → a = cmd.extractLsb' 0 8) ∧
    (∀ a v, i = .csrw a v → a = cmd.extractLsb' 0 8 ∧ v = wdata)

/-- Decoding the transaction of a well-formed command gives the command back, every operand at every value;
for every command but CSRW, with any operand word. -/
def Obligations.DecodeOfEncode : Prop :=
  ∀ i : Instr, i.wellFormed = true →
    decode (encode i).1 (encode i).2 = .ok i ∧
    ((∀ a v, i ≠ .csrw a v) → ∀ wdata, decode (encode i).1 wdata = .ok i)

/-- Every command read from a transaction is well-formed and encodes to that command word, and, for CSRW, to
that operand word. -/
def Obligations.EncodeOfDecode : Prop :=
  ∀ (cmd wdata : Word) (i : Instr), decode cmd wdata = .ok i →
    i.wellFormed = true ∧ (encode i).1 = cmd ∧
    (encode i).2 = if i.opcode = .csrw then wdata else 0#32

/-! ### Dispatch and steps -/

/-- R144, R138, R139: an illegal word and a data command while RUN = 0 change only CMD_ERR and the response;
every other transaction has the effect of its command. -/
def Obligations.DispatchOfOneTransaction : Prop :=
  ∀ (s : State) (cmd wdata : Word) (rest : List HostInput), s.port = .command cmd wdata :: rest →
    (10 ≤ (cmd.extractLsb' 28 4).toNat → step s = .next (turnedAway { s with port := rest })) ∧
    (∀ row ∈ commandRows, row.2.1.extractLsb' 28 4 = cmd.extractLsb' 28 4 → cmd &&& row.2.2 ≠ row.2.1 →
      step s = .next (turnedAway { s with port := rest })) ∧
    (∀ row ∈ commandRows, cmd &&& row.2.2 = row.2.1 → ∃ i, decode cmd wdata = .ok i ∧ i.opcode = row.1 ∧
      step s = if isData i && !s.run then .next (turnedAway { s with port := rest })
        else exec i { s with port := rest })

/-- R506: exactly which transactions record IllegalCommand, and that they have no effect. -/
def Obligations.IllegalCommandExactlyWhen : Prop :=
  Event.illegalCommand.code = some 11 ∧
  ∀ (s t : State) (cmd wdata : Word) (rest : List HostInput), s.port = .command cmd wdata :: rest →
    step s = .next t →
    let raised : Prop :=
      (∀ row ∈ commandRows, cmd &&& row.2.2 ≠ row.2.1) ∨
      ∃ i, decode cmd wdata = .ok i ∧
        ((isData i = true ∧ s.run = false) ∨
          ((∃ b, i = .ebyte b) ∧ s.encCfg.msgMode = true ∧ s.enc.pending = true) ∨
          (i = .emsg ∧ (s.encCfg.msgMode = false ∨ s.enc.pending = true)) ∨
          (i = .einvoke ∧ s.encCfg.msgMode = false))
    (raised → t = turnedAway { s with port := rest }) ∧
    (s.sticky.cmdErr = false → t.sticky.cmdErr = true → raised)

/-- A step on a legal transaction is the command's execution, the transaction taken from the port; so too for
the transaction of any well-formed command, and for a table word placed by `withFetchWord`. That the host's
inputs stand in a list and are placed there from outside (log 1), and that a table word has the command word in
bits 31 to 0 and the operand word in bits 63 to 32 (log 12), is the model's choice. The last three clauses say
that commands and steps are those of the parametric core at this hardware's parameters (R8). -/
def Obligations.StepRunsTheDecodedCommand : Prop :=
  (∀ (s : State) (cmd wdata : Word) (rest : List HostInput) (i : Instr),
    s.port = .command cmd wdata :: rest → decode cmd wdata = .ok i → step s = exec i { s with port := rest }) ∧
  (∀ (s : State) (rest : List HostInput) (i : Instr), i.wellFormed = true →
    s.port = .command (encode i).1 (encode i).2 :: rest → step s = exec i { s with port := rest }) ∧
  (∀ (s : State) (cmd wdata : Word) (i : Instr), decode cmd wdata = .ok i →
    step (s.withFetchWord 64 (cmd.toNat + wdata.toNat * 2 ^ 32)) = exec i s) ∧
  (∀ (i : Instr) (s : State), exec i s = .next (effectAt thisCore i s)) ∧
  (∀ (is : List Instr) (s : State), execAll is s = .next (applyAll thisCore is s)) ∧
  ∀ s : State, step s = stepAt thisCore s

/-- Every command word is exactly one row or illegal (R141), and every step answers a next state. R141 speaks
of command words only; that a step with nothing pending changes nothing (log 2), that there is no fault (log 19),
and that the engine always answers (log 5, the blind spot of R369) are the model's. -/
def Obligations.EveryWordIsOneRowOrIllegal : Prop :=
  (∀ cmd wdata : Word,
    (∃ row ∈ commandRows, cmd &&& row.2.2 = row.2.1 ∧ (∃ i, decode cmd wdata = .ok i ∧ i.opcode = row.1) ∧
      ∀ row' ∈ commandRows, cmd &&& row'.2.2 = row'.2.1 → row' = row) ∨
    ((∀ row ∈ commandRows, cmd &&& row.2.2 ≠ row.2.1) ∧ ∃ x, decode cmd wdata = .error x)) ∧
  ∀ s : State, ∃ t, step s = .next t

/-- R80 (SYNC_WORD's value is the spec's own from general knowledge, log 9): every state element after reset, but
for the buffers, whose contents the spec leaves unspecified; and
what a later reset leaves of the output streams. The last clauses hold for every value of the parameters (R8):
SYNC_WORD at power-on and after a later reset is SYNC_RESET. -/
def Obligations.ResetValues : Prop :=
  State.reset.run = false ∧
  State.reset.decCfg = { t := 0#6, rsEn := false, ilvEn := false, dscrEn := false, dual := false, depth := 1#4 } ∧
  exec (.csrr 0x01#8) State.reset = .next { State.reset with rdata := 0x00001000#32 } ∧
  State.reset.encCfg =
    { rsEn := false, ilvEn := false, scrEn := false, dual := false, msgMode := false, idleEn := false
      tail := false, depth := 1#4, idleGap := 0#16 } ∧
  exec (.csrr 0x02#8) State.reset = .next { State.reset with rdata := 0x00001000#32 } ∧
  State.reset.syncWord = 0x1ACFFC1D#32 ∧
  State.reset.dec.dstate = .syncSearch ∧ State.reset.dec.sr = 0#32 ∧ State.reset.dec.bitcnt = 0#3 ∧
  State.reset.dec.bytecnt = 0#11 ∧
  State.reset.last =
    { valid := false, ok := false, fillFast := false, fillExh := false, failMask := 0#8, corr := 0#32 } ∧
  State.reset.counters =
    { framesReceived := 0#32, framesDecoded := 0#32, subframesDecoded := 0#32, fillFramesDecoded := 0#32
      framesTransmitted := 0#32 } ∧
  State.reset.enc.ecount = 0#16 ∧ State.reset.enc.pending = false ∧ State.reset.enc.started = false ∧
  State.reset.sticky = { uncorr := false, msgErr := false, lenErr := false, cmdErr := false, cfgErr := false } ∧
  State.reset.rdata = 0#32 ∧ State.reset.rx = [] ∧ State.reset.tx = [] ∧
  (coreAt thisCore).reset = State.reset ∧
  (∀ w : Word, State.resetWith w = { State.reset with syncWord := w }) ∧
  ∀ (P : Params) (s : State), (hardwareReset P s).rx = s.rx ∧ (hardwareReset P s).tx = s.tx ∧
    (hardwareReset P s).syncWord = P.syncReset

/-- The reset input sets every state element (but for the buffers, whose contents are unspecified) to its reset
value and leaves what was appended to the output streams (R600). That it is an input served between two commands,
and that the host's pending inputs survive it, is the model's reading (log 3); the marker is the spec's value from
general knowledge (log 9). -/
def Obligations.HardwareResetKeepsTheStreams : Prop :=
  ∀ (s : State) (rest : List HostInput), s.port = .reset :: rest →
    ∃ t, step s = .next t ∧ t.rx = s.rx ∧ t.tx = s.tx ∧ t.port = rest ∧
      t.run = false ∧ t.decCfg = State.reset.decCfg ∧ t.encCfg = State.reset.encCfg ∧
      t.syncWord = 0x1ACFFC1D#32 ∧ t.dec.dstate = .syncSearch ∧ t.dec.sr = 0#32 ∧ t.dec.bitcnt = 0#3 ∧
      t.dec.bytecnt = 0#11 ∧ t.last = State.reset.last ∧ t.counters = State.reset.counters ∧
      t.enc.ecount = 0#16 ∧ t.enc.pending = false ∧ t.enc.started = false ∧
      t.sticky = State.reset.sticky ∧ t.rdata = 0#32

/-! ### Control commands and registers -/

/-- R400. -/
def Obligations.NopOnlyResponds : Prop :=
  (∀ cmd wdata : Word, decode cmd wdata = .ok .nop ↔ cmd = 0x00000000#32) ∧
  ∀ s : State, exec .nop s = .next { s with rdata := 0#32 }

/-- R103: a read changes nothing but the response, and reading again answers the same. -/
def Obligations.RegisterReadsHaveNoSideEffect : Prop :=
  ∀ (s : State) (a : BitVec 8), ∃ t, exec (.csrr a) s = .next t ∧ { t with rdata := s.rdata } = s ∧
    exec (.csrr a) t = .next t

/-- R65, R66, R67, R69, R70: the plain read-only registers, as read, as written and at reset. -/
def Obligations.ReadOnlyRegisters : Prop :=
  (∀ s : State, ∃ w : Word, exec (.csrr 0x05#8) s = .next { s with rdata := w } ∧
    w.extractLsb' 0 3 = s.dec.bitcnt ∧ w.extractLsb' 3 13 = 0#13 ∧ w.extractLsb' 16 11 = s.dec.bytecnt ∧
    w.extractLsb' 27 5 = 0#5) ∧
  (∀ s : State, exec (.csrr 0x06#8) s = .next { s with rdata := s.dec.sr }) ∧
  (∀ s : State, exec (.csrr 0x07#8) s = .next { s with rdata := s.last.corr }) ∧
  (∀ s : State, exec (.csrr 0x08#8) s = .next { s with rdata := s.counters.framesReceived }) ∧
  (∀ s : State, exec (.csrr 0x09#8) s = .next { s with rdata := s.counters.framesDecoded }) ∧
  (∀ s : State, exec (.csrr 0x0A#8) s = .next { s with rdata := s.counters.subframesDecoded }) ∧
  (∀ s : State, exec (.csrr 0x0B#8) s = .next { s with rdata := s.counters.fillFramesDecoded }) ∧
  (∀ s : State, exec (.csrr 0x0C#8) s = .next { s with rdata := s.counters.framesTransmitted }) ∧
  (∀ s : State, exec (.csrr 0x0D#8) s = .next { s with rdata := BitVec.ofNat 32 s.enc.ecount.toNat }) ∧
  (∀ s : State, exec (.csrr 0x0E#8) s = .next { s with rdata := 8#32 }) ∧
  (∀ (P : Params) (s : State),
    effectAt P (.csrr 0x0E#8) s = { s with rdata := BitVec.ofNat 32 P.pMaxI }) ∧
  (∀ (s : State) (a : BitVec 8) (v : Word), 0x05 ≤ a.toNat → a.toNat ≤ 0x0E →
    exec (.csrw a v) s = .next { s with rdata := 0#32 }) ∧
  (∀ a : BitVec 8, 0x05 ≤ a.toNat → a.toNat ≤ 0x0D →
    exec (.csrr a) State.reset = .next { State.reset with rdata := 0#32 })

/-- R71: a reserved address reads 0 and ignores writes, without an event. -/
def Obligations.ReservedAddressesAreInert : Prop :=
  ∀ (s : State) (a : BitVec 8) (v : Word), 0x0F ≤ a.toNat →
    exec (.csrr a) s = .next { s with rdata := 0#32 } ∧ exec (.csrw a v) s = .next { s with rdata := 0#32 }

/-- R73: every reserved bit reads 0 in every state, so whatever was written. -/
def Obligations.ReservedBitsReadZero : Prop :=
  ∀ s : State, ∀ row ∈ ([(0x00#8, 0xFFFFFFFE#32), (0x01#8, 0xFFFF0C00#32), (0x02#8, 0x00000F80#32),
      (0x04#8, 0xFF00E080#32), (0x05#8, 0xF800FFF8#32), (0x0D#8, 0xFFFF0000#32), (0x0E#8, 0xFFFFFFF0#32)] :
      List (BitVec 8 × Word)),
    ∃ t, exec (.csrr row.1) s = .next t ∧ t.rdata &&& row.2 = 0#32

/-- R57: CTRL as read and at reset, what RUN = 0 and RUN = 1 mean for the other commands, and the write
action: only a rising edge of RUN initialises the datapath, and clearing RUN changes nothing else. -/
def Obligations.CtrlRegister : Prop :=
  ∀ (s : State) (v : Word),
    exec (.csrr 0x00#8) s = .next { s with rdata := if s.run then 1#32 else 0#32 } ∧
    State.reset.run = false ∧
    (∀ i, isData i = true → s.run = false → exec i s = .next (turnedAway s)) ∧
    (∀ a : BitVec 8, 1 ≤ a.toNat → a.toNat ≤ 3 → s.run = true →
      exec (.csrw a v) s = .next (configRejected s)) ∧
    (s.run = false → v.getLsbD 0 = true →
      exec (.csrw 0x00#8 v) s = .next { s with
        run := true
        dec := { s.dec with dstate := .syncSearch, sr := 0#32, bitcnt := 0#3, bytecnt := 0#11 }
        enc := { s.enc with ecount := 0#16, pending := false, started := false }
        rdata := 0#32 }) ∧
    (s.run = true ∨ v.getLsbD 0 = false →
      exec (.csrw 0x00#8 v) s = .next { s with run := v.getLsbD 0, rdata := 0#32 })

/-- R59, and the layout of R58: DEC_CFG as written and as read back, and which depths are legal at any value of
P_MAX_I. -/
def Obligations.DecCfgRegister : Prop :=
  ∀ (s : State) (v : Word),
    (s.run = true → exec (.csrw 0x01#8 v) s = .next (configRejected s)) ∧
    (s.run = false → (v.extractLsb' 12 4).toNat = 0 ∨ 8 < (v.extractLsb' 12 4).toNat →
      exec (.csrw 0x01#8 v) s = .next (configRejected s)) ∧
    (s.run = false → 1 ≤ (v.extractLsb' 12 4).toNat → (v.extractLsb' 12 4).toNat ≤ 8 →
      ∃ t, exec (.csrw 0x01#8 v) s = .next t ∧
        t = { s with
          decCfg := { t := v.extractLsb' 0 6, rsEn := v.getLsbD 6, ilvEn := v.getLsbD 7, dscrEn := v.getLsbD 8
                      dual := v.getLsbD 9, depth := v.extractLsb' 12 4 }
          rdata := 0#32 } ∧
        exec (.csrr 0x01#8) t = .next { t with rdata := v &&& 0x0000F3FF#32 }) ∧
    (∀ P : Params, s.run = false → effectAt P (.csrw 0x01#8 v) s =
      if 1 ≤ (v.extractLsb' 12 4).toNat ∧ (v.extractLsb' 12 4).toNat ≤ P.pMaxI
        then { s with decCfg := DecCfg.ofWord v, rdata := 0#32 } else configRejected s)

/-- R61, and the layout of R60: ENC_CFG as written and as read back, and which depths are legal at any value of
P_MAX_I. -/
def Obligations.EncCfgRegister : Prop :=
  ∀ (s : State) (v : Word),
    (s.run = true → exec (.csrw 0x02#8 v) s = .next (configRejected s)) ∧
    (s.run = false → (v.extractLsb' 12 4).toNat = 0 ∨ 8 < (v.extractLsb' 12 4).toNat →
      exec (.csrw 0x02#8 v) s = .next (configRejected s)) ∧
    (s.run = false → 1 ≤ (v.extractLsb' 12 4).toNat → (v.extractLsb' 12 4).toNat ≤ 8 →
      ∃ t, exec (.csrw 0x02#8 v) s = .next t ∧
        t = { s with
          encCfg := { rsEn := v.getLsbD 0, ilvEn := v.getLsbD 1, scrEn := v.getLsbD 2, dual := v.getLsbD 3
                      msgMode := v.getLsbD 4, idleEn := v.getLsbD 5, tail := v.getLsbD 6
                      depth := v.extractLsb' 12 4, idleGap := v.extractLsb' 16 16 }
          rdata := 0#32 } ∧
        exec (.csrr 0x02#8) t = .next { t with rdata := v &&& 0xFFFFF07F#32 }) ∧
    (∀ P : Params, s.run = false → effectAt P (.csrw 0x02#8 v) s =
      if 1 ≤ (v.extractLsb' 12 4).toNat ∧ (v.extractLsb' 12 4).toNat ≤ P.pMaxI
        then { s with encCfg := EncCfg.ofWord v, rdata := 0#32 } else configRejected s)

/-- The write action and the read value of SYNC_WORD: every value is legal while RUN = 0. -/
def Obligations.SyncWordRegister : Prop :=
  ∀ (s : State) (v : Word),
    (s.run = true → exec (.csrw 0x03#8 v) s = .next (configRejected s)) ∧
    (s.run = false → exec (.csrw 0x03#8 v) s = .next { s with syncWord := v, rdata := 0#32 }) ∧
    exec (.csrr 0x03#8) s = .next { s with rdata := s.syncWord }

/-- R63, R64: STATUS as read and at reset, and its write action, at any RUN. -/
def Obligations.StatusRegister : Prop :=
  (∀ s : State, ∃ w : Word, exec (.csrr 0x04#8) s = .next { s with rdata := w } ∧
    (w.getLsbD 0 = true ↔ s.dec.dstate = .codeword) ∧ w.getLsbD 1 = s.enc.started ∧
    w.getLsbD 2 = s.enc.pending ∧ w.getLsbD 3 = s.last.ok ∧ w.getLsbD 4 = s.last.fillFast ∧
    w.getLsbD 5 = s.last.fillExh ∧ w.getLsbD 6 = s.last.valid ∧ w.getLsbD 7 = false ∧
    w.getLsbD 8 = s.sticky.uncorr ∧ w.getLsbD 9 = s.sticky.msgErr ∧ w.getLsbD 10 = s.sticky.lenErr ∧
    w.getLsbD 11 = s.sticky.cmdErr ∧ w.getLsbD 12 = s.sticky.cfgErr ∧ w.extractLsb' 13 3 = 0#3 ∧
    w.extractLsb' 16 8 = s.last.failMask ∧ w.extractLsb' 24 8 = 0#8) ∧
  exec (.csrr 0x04#8) State.reset = .next { State.reset with rdata := 0#32 } ∧
  ∀ (s : State) (v : Word), exec (.csrw 0x04#8 v) s = .next { s with
    sticky := { uncorr := s.sticky.uncorr && !v.getLsbD 8, msgErr := s.sticky.msgErr && !v.getLsbD 9
                lenErr := s.sticky.lenErr && !v.getLsbD 10, cmdErr := s.sticky.cmdErr && !v.getLsbD 11
                cfgErr := s.sticky.cfgErr && !v.getLsbD 12 }
    rdata := 0#32 }

/-- R507: ConfigRejected is recorded by exactly the writes named, and nothing else of the core changes. -/
def Obligations.ConfigRejectedExactlyWhen : Prop :=
  Event.configRejected.code = some 12 ∧
  (∀ (s : State) (a : BitVec 8) (v : Word),
    (s.run = true ∧ 1 ≤ a.toNat ∧ a.toNat ≤ 3) ∨
      (1 ≤ a.toNat ∧ a.toNat ≤ 2 ∧ ((v.extractLsb' 12 4).toNat = 0 ∨ 8 < (v.extractLsb' 12 4).toNat)) →
    exec (.csrw a v) s = .next (configRejected s)) ∧
  (∀ (s t : State) (i : Instr), exec i s = .next t → s.sticky.cfgErr = false → t.sticky.cfgErr = true →
    ∃ a v, i = .csrw a v ∧ ((s.run = true ∧ 1 ≤ a.toNat ∧ a.toNat ≤ 3) ∨
      (1 ≤ a.toNat ∧ a.toNat ≤ 2 ∧ ((v.extractLsb' 12 4).toNat = 0 ∨ 8 < (v.extractLsb' 12 4).toNat))))

/-- R403. -/
def Obligations.CntclrClearsTheCounters : Prop :=
  (∀ cmd wdata : Word, decode cmd wdata = .ok .cntclr ↔ cmd = 0x80000000#32) ∧
  (∀ cmd wdata : Word, cmd.extractLsb' 28 4 = 8#4 → cmd ≠ 0x80000000#32 →
    ∀ s : State, s.port = [.command cmd wdata] → step s = .next (turnedAway { s with port := [] })) ∧
  ∀ s : State, exec .cntclr s = .next { s with
    counters := { framesReceived := 0#32, framesDecoded := 0#32, subframesDecoded := 0#32
                  fillFramesDecoded := 0#32, framesTransmitted := 0#32 }
    rdata := 0#32 }

/-- R404. -/
def Obligations.ReinitKeepsTheConfiguration : Prop :=
  (∀ cmd wdata : Word, decode cmd wdata = .ok .reinit ↔ cmd = 0x90000000#32) ∧
  (∀ cmd wdata : Word, cmd.extractLsb' 28 4 = 9#4 → cmd ≠ 0x90000000#32 →
    ∀ s : State, s.port = [.command cmd wdata] → step s = .next (turnedAway { s with port := [] })) ∧
  ∀ s : State, exec .reinit s = .next { s with
    dec := { s.dec with dstate := .syncSearch, sr := 0#32, bitcnt := 0#3, bytecnt := 0#11 }
    enc := { s.enc with ecount := 0#16, pending := false, started := false }
    counters := { framesReceived := 0#32, framesDecoded := 0#32, subframesDecoded := 0#32
                  fillFramesDecoded := 0#32, framesTransmitted := 0#32 }
    last := { valid := false, ok := false, fillFast := false, fillExh := false, failMask := 0#8, corr := 0#32 }
    sticky := { uncorr := false, msgErr := false, lenErr := false, cmdErr := false, cfgErr := false }
    rdata := 0#32 }

/-! ### The decoder -/

/-- R204, R206: a bit in SyncSearch. The distance is counted bit by bit. -/
def Obligations.BitInSyncSearch : Prop :=
  ∀ (s : State) (b : Bool) (sr : Word), s.run = true → s.dec.dstate = .syncSearch →
    sr.toNat = (2 * s.dec.sr.toNat + b.toNat) % 2 ^ 32 →
    (((List.range 32).filter fun k => sr.getLsbD k != s.syncWord.getLsbD k).length ≤ s.decCfg.t.toNat →
      exec (.dbit b) s = .next { s with
        dec := { s.dec with dstate := .codeword, sr := sr, bitcnt := 0#3, bytecnt := 0#11 }
        counters := { s.counters with framesReceived := s.counters.framesReceived + 1#32 }
        rdata := 0#32 }) ∧
    (s.decCfg.t.toNat < ((List.range 32).filter fun k => sr.getLsbD k != s.syncWord.getLsbD k).length →
      exec (.dbit b) s = .next { s with dec := { s.dec with sr := sr }, rdata := 0#32 })

/-- R208, R210: a bit in Codeword. The eighth bit of a byte stores it, and the byte that fills the codeword
runs one decode attempt and returns to SyncSearch within the same bit. -/
def Obligations.BitInCodeword : Prop :=
  ∀ (s : State) (b : Bool) (sr : Word), s.run = true → s.dec.dstate = .codeword → s.dec.bytecnt.toNat < 2040 →
    sr.toNat = (2 * s.dec.sr.toNat + b.toNat) % 2 ^ 32 →
    (s.dec.bitcnt.toNat < 7 →
      exec (.dbit b) s = .next { s with
        dec := { s.dec with sr := sr, bitcnt := s.dec.bitcnt + 1#3 }, rdata := 0#32 }) ∧
    (s.dec.bitcnt.toNat = 7 →
      let stored : State := { s with dec := { s.dec with
        sr := sr, cw := s.dec.cw.setIfInBounds s.dec.bytecnt.toNat (sr.extractLsb' 0 8)
        bytecnt := s.dec.bytecnt + 1#11, bitcnt := 0#3 } }
      let decoded := decodeFrame thisCore stored
      (s.dec.bytecnt.toNat + 1 ≠ s.decCfg.depth.toNat * 255 →
        exec (.dbit b) s = .next { stored with rdata := 0#32 }) ∧
      (s.dec.bytecnt.toNat + 1 = s.decCfg.depth.toNat * 255 →
        exec (.dbit b) s = .next { decoded with
          dec := { decoded.dec with dstate := .syncSearch, sr := 0#32, bitcnt := 0#3, bytecnt := 0#11 }
          rdata := 0#32 }))

/-- R133, and the equivalence of R202: DBATCH completes and gives the state of its DBITs, `D[N-1]` first,
whatever the bits above; the assembler writes those bits as 0. -/
def Obligations.BatchIsItsBits : Prop :=
  (∀ (s : State) (n : Nat) (d : BitVec 16), 1 ≤ n → n ≤ 16 →
    ∃ t, exec (.dbatch n d) s = .next t ∧
      execAll ((List.range n).map fun k => .dbit (d.getLsbD (n - 1 - k))) s = .next t) ∧
  (∀ (s : State) (n : Nat) (d d' : BitVec 16), (∀ k < n, d.getLsbD k = d'.getLsbD k) →
    exec (.dbatch n d) s = exec (.dbatch n d') s) ∧
  (∀ (cmd wdata : Word) (n : Nat) (d : BitVec 16), decode cmd wdata = .ok (.dbatch n d) →
    n = (cmd.extractLsb' 24 4).toNat + 1 ∧ 1 ≤ n ∧ n ≤ 16 ∧ d = cmd.extractLsb' 0 16) ∧
  (∀ (n : Nat) (d : BitVec 16), (Instr.dbatch n d).assemblable = true → ∀ k, n ≤ k → d.getLsbD k = false)

/-- The first-received bit is the most significant: of 32 bits in the shift register, and of 8 bits in a
codeword byte. -/
def Obligations.FirstBitIsMostSignificant : Prop :=
  ∀ (sr : Word) (bs : List Bool),
    (bs.length = 32 → (bs.foldl shiftIn sr).toNat = bs.foldl (fun v b => 2 * v + b.toNat) 0) ∧
    (bs.length = 8 → ((bs.foldl shiftIn sr).extractLsb' 0 8).toNat = bs.foldl (fun v b => 2 * v + b.toNat) 0)

/-- Sync is declared on a marker with `k` bit errors iff `k` is at most `T`, and on anything from `T` = 32 (the
spec's own inference, R207). -/
def Obligations.ThresholdCountsBitErrors : Prop :=
  ∀ (sync errors : Word) (t : BitVec 6),
    (markerFound (sync ^^^ errors) sync t = true ↔
      ((List.range 32).filter fun k => errors.getLsbD k).length ≤ t.toNat) ∧
    (32 ≤ t.toNat → ∀ sr, markerFound sr sync t = true)

/-- The first parts of the default marker are at distance 11 or more from it, 11 being reached by 31 bits (the
spec's own inference, R610, about a marker value it takes from general knowledge, log 9). -/
def Obligations.DefaultMarkerEarlyLockDistance : Prop :=
  (∀ k < 32, 1 ≤ k → 11 ≤ hamming (0x1ACFFC1D#32 >>> (32 - k)) 0x1ACFFC1D#32) ∧
  hamming (0x1ACFFC1D#32 >>> 1) 0x1ACFFC1D#32 = 11 ∧
  (∀ t : BitVec 6, NoEarlyLock 0x1ACFFC1D#32 t ↔ t.toNat ≤ 10)

/-- A correct marker fed from a zeroed shift register locks on its last bit and not before, if no first part
of it is within the threshold (the spec's own inferences, R106, R212, R610). -/
def Obligations.MarkerLocksOnItsLastBit : Prop :=
  ∀ s : State, s.run = true → s.dec.dstate = .syncSearch → s.dec.sr = 0#32 → NoEarlyLock s.syncWord s.decCfg.t →
    (∀ k < 32, ∃ t, execAll (((wireBits (wireMarker s.syncWord)).take k).map .dbit) s = .next t ∧
      t.dec.dstate = .syncSearch ∧ t.counters = s.counters) ∧
    ∃ t, execAll ((wireBits (wireMarker s.syncWord)).map .dbit) s = .next t ∧
      t.dec = { s.dec with dstate := .codeword, sr := s.syncWord, bitcnt := 0#3, bytecnt := 0#11 } ∧
      t.counters = { s.counters with framesReceived := s.counters.framesReceived + 1#32 } ∧
      t.rx = s.rx ∧ t.sticky = s.sticky

/-- The buffers after a decode attempt, at any parameters: R216, R217, R218, and the copy of step 4, which the spec
marks as its own inference (R219). -/
def Obligations.DecodeAttemptBuffers : Prop :=
  ∀ (P : Params) (s : State), 1 ≤ s.decCfg.depth.toNat → s.decCfg.depth.toNat ≤ 8 →
    (∀ k, k < s.decCfg.depth.toNat * 255 → bufRead (decodeFrame P s).dec.cw k = receivedByte P.cover s k) ∧
    (∀ k, s.decCfg.depth.toNat * 255 ≤ k → bufRead (decodeFrame P s).dec.cw k = bufRead s.dec.cw k) ∧
    (∀ i < s.decCfg.depth.toNat, ∀ j < 223,
      bufRead (decodeFrame P s).dec.pl (place s.decCfg.ilvEn s.decCfg.depth.toNat 223 i j) =
        bufRead (blockUsed P s i) j) ∧
    (∀ k, s.decCfg.depth.toNat * 223 ≤ k → bufRead (decodeFrame P s).dec.pl k = bufRead s.dec.pl k) ∧
    (decodeFrame P s).dec.dstate = s.dec.dstate ∧ (decodeFrame P s).dec.sr = s.dec.sr ∧
    (decodeFrame P s).dec.bitcnt = s.dec.bitcnt ∧ (decodeFrame P s).dec.bytecnt = s.dec.bytecnt

/-- R218, R220, R503: a frame succeeds iff every sub-block does, all sub-blocks are processed, the counters
move accordingly, and a failed frame is recorded as UncorrectableBlock. -/
def Obligations.DecodeAttemptOutcome : Prop :=
  ∀ (P : Params) (s : State), 1 ≤ s.decCfg.depth.toNat → s.decCfg.depth.toNat ≤ 8 →
    ((decodeFrame P s).last.ok = true ↔ ∀ i < s.decCfg.depth.toNat, blockAnswer P s i ≠ none) ∧
    (∀ i < 8, (decodeFrame P s).last.failMask.getLsbD i = true ↔
      i < s.decCfg.depth.toNat ∧ blockAnswer P s i = none) ∧
    (decodeFrame P s).last.corr = BitVec.ofNat 32
      ((List.range s.decCfg.depth.toNat).map fun i => ((blockAnswer P s i).map Prod.fst).getD 0).sum ∧
    (decodeFrame P s).counters.framesReceived = s.counters.framesReceived ∧
    (decodeFrame P s).counters.framesDecoded =
      countOn P.cntWidth (if (decodeFrame P s).last.ok then 1 else 0) s.counters.framesDecoded ∧
    (decodeFrame P s).counters.subframesDecoded = countOn P.cntWidth
      (if s.decCfg.rsEn then ((List.range s.decCfg.depth.toNat).filter fun i => (blockAnswer P s i).isSome).length
        else 0) s.counters.subframesDecoded ∧
    (decodeFrame P s).counters.framesTransmitted = s.counters.framesTransmitted ∧
    (decodeFrame P s).sticky =
      { s.sticky with uncorr := s.sticky.uncorr || !(decodeFrame P s).last.ok } ∧
    (s.decCfg.rsEn = false → (decodeFrame P s).last.ok = true)

/-- R221: fill detection runs on every attempt and the fast verdict counts; the payload is published iff the
frame succeeded and the fast verdict is not fill. -/
def Obligations.DecodeAttemptPublication : Prop :=
  ∀ (P : Params) (s : State) (p : List Byte), 1 ≤ s.decCfg.depth.toNat → s.decCfg.depth.toNat ≤ 8 →
    IsReceivedPayload P s p →
    ((decodeFrame P s).last.fillFast = true ↔ p[0]? = some 0#8 ∧ p[1]? = some 0#8) ∧
    ((decodeFrame P s).last.fillExh = true ↔ ∀ x ∈ p, x = 0#8) ∧
    (decodeFrame P s).last.valid = true ∧
    (decodeFrame P s).counters.fillFramesDecoded =
      countOn P.cntWidth (if (decodeFrame P s).last.fillFast then 1 else 0) s.counters.fillFramesDecoded ∧
    (decodeFrame P s).rx =
      if (decodeFrame P s).last.ok && !(decodeFrame P s).last.fillFast then s.rx ++ [p] else s.rx

/-- R340, R341: the two fill detectors, for every payload buffer and every length. -/
def Obligations.FillDetectors : Prop :=
  ∀ (pl : Vector Byte Config.plSize) (p : Nat), p ≤ Config.plSize →
    (fillFast pl = true ↔ pl[0]? = some 0#8 ∧ pl[1]? = some 0#8) ∧
    (fillExhaustive pl p = true ↔ ((List.range p).map fun k => (bufRead pl k).toNat).sum = 0) ∧
    ((List.range p).map fun k => (bufRead pl k).toNat).sum ≤ 454920 ∧
    (fillExhaustive pl p = true ↔ ∀ k < p, pl[k]? = some 0#8)

/-- The frame of DBIT and DBATCH: what feeding the decoder never changes (R618, the spec's own inference), and
that both complete. -/
def Obligations.DecoderCommandsFrame : Prop :=
  ∀ (s : State) (i : Instr), isDecoderCommand i = true →
    ∃ t, exec i s = .next t ∧
      t.run = s.run ∧ t.decCfg = s.decCfg ∧ t.encCfg = s.encCfg ∧ t.syncWord = s.syncWord ∧ t.enc = s.enc ∧
      t.tx = s.tx ∧ t.rdata = 0#32 ∧ t.port = s.port ∧
      t.counters.framesTransmitted = s.counters.framesTransmitted ∧
      t.sticky.msgErr = s.sticky.msgErr ∧ t.sticky.lenErr = s.sticky.lenErr ∧ t.sticky.cfgErr = s.sticky.cfgErr ∧
      (s.run = true → t.sticky.cmdErr = s.sticky.cmdErr) ∧
      (s.run = false → t = turnedAway s)

/-! ### The encoder -/

/-- R251: EBYTE in every mode. In stream mode the byte that completes a payload unit emits its frame. The last
clauses say how far the byte count goes at any value of ECNT_WIDTH. -/
def Obligations.PayloadByte : Prop :=
  (∀ cmd wdata : Word, (∃ b, decode cmd wdata = .ok (.ebyte b)) ↔ cmd &&& 0xFFFFFF00#32 = 0x30000000#32) ∧
  ∀ (s : State) (b : Byte), 1 ≤ s.encCfg.depth.toNat → s.encCfg.depth.toNat ≤ 8 →
    let pe := s.encCfg.depth.toNat * 223
    let ebuf := s.enc.ebuf.setIfInBounds s.enc.ecount.toNat b
    (s.run = false → exec (.ebyte b) s = .next (turnedAway s)) ∧
    (s.run = true → s.encCfg.msgMode = false → s.enc.ecount.toNat + 1 < pe →
      exec (.ebyte b) s = .next { s with
        enc := { s.enc with ebuf := ebuf, ecount := s.enc.ecount + 1#16 }, rdata := 0#32 }) ∧
    (s.run = true → s.encCfg.msgMode = false → s.enc.ecount.toNat + 1 = pe →
      ∃ frame, IsWireFrame thisCore s (ebuf.toList.take pe) frame ∧
        exec (.ebyte b) s = .next { s with
          enc := { s.enc with ebuf := ebuf, ecount := 0#16, started := true }
          tx := s.tx ++ frame
          counters := { s.counters with framesTransmitted := s.counters.framesTransmitted + 1#32 }
          rdata := 0#32 }) ∧
    (s.run = true → s.encCfg.msgMode = true → s.enc.pending = true →
      exec (.ebyte b) s = .next (turnedAway s)) ∧
    (s.run = true → s.encCfg.msgMode = true → s.enc.pending = false → s.enc.ecount.toNat < pe →
      exec (.ebyte b) s = .next { s with
        enc := { s.enc with ebuf := ebuf, ecount := s.enc.ecount + 1#16 }, rdata := 0#32 }) ∧
    (s.run = true → s.encCfg.msgMode = true → s.enc.pending = false → pe ≤ s.enc.ecount.toNat →
      exec (.ebyte b) s = .next { s with
        enc := { s.enc with ecount := if s.enc.ecount = 0xFFFF#16 then 0xFFFF#16 else s.enc.ecount + 1#16 }
        rdata := 0#32 }) ∧
    (∀ P : Params, s.run = true → s.encCfg.msgMode = true → s.enc.pending = false →
      (effectAt P (.ebyte b) s).enc.ecount.toNat = min (s.enc.ecount.toNat + 1) (2 ^ P.ecntWidth - 1)) ∧
    (∀ P : Params, s.run = true → s.encCfg.msgMode = false → s.encCfg.depth.toNat ≤ P.pMaxI →
      s.enc.ecount.toNat < pe → (effectAt P (.ebyte b) s).enc.ecount.toNat =
        if s.enc.ecount.toNat + 1 = pe then 0 else s.enc.ecount.toNat + 1)

/-- R254: EMSG. -/
def Obligations.MessageQueued : Prop :=
  (∀ cmd wdata : Word, decode cmd wdata = .ok .emsg ↔ cmd = 0x40000000#32) ∧
  ∀ s : State,
    (s.run = false ∨ s.encCfg.msgMode = false ∨ s.enc.pending = true → exec .emsg s = .next (turnedAway s)) ∧
    (s.run = true → s.encCfg.msgMode = true → s.enc.pending = false →
      exec .emsg s = .next { s with enc := { s.enc with pending := true }, rdata := 0#32 })

/-- R255: EINVOKE in every mode: an idle frame, a malformed input, a length mismatch, or the queued
message's frame. -/
def Obligations.EncoderInvocation : Prop :=
  (∀ cmd wdata : Word, decode cmd wdata = .ok .einvoke ↔ cmd = 0x50000000#32) ∧
  ∀ s : State, 1 ≤ s.encCfg.depth.toNat → s.encCfg.depth.toNat ≤ 8 →
    let pe := s.encCfg.depth.toNat * 223
    (s.run = false ∨ s.encCfg.msgMode = false → exec .einvoke s = .next (turnedAway s)) ∧
    (s.run = true → s.encCfg.msgMode = true → s.enc.pending = false → s.encCfg.idleEn = true →
      ∃ frame, IsWireFrame thisCore s (List.replicate pe 0#8) frame ∧
        exec .einvoke s = .next { s with
          enc := { s.enc with started := true }
          tx := s.tx ++ frame
          counters := { s.counters with framesTransmitted := s.counters.framesTransmitted + 1#32 }
          rdata := 0#32 }) ∧
    (s.run = true → s.encCfg.msgMode = true → s.enc.pending = false → s.encCfg.idleEn = false →
      exec .einvoke s = .next { s with sticky := { s.sticky with msgErr := true }, rdata := 0#32 }) ∧
    (s.run = true → s.encCfg.msgMode = true → s.enc.pending = true → s.enc.ecount.toNat ≠ pe →
      exec .einvoke s = .next { s with
        enc := { s.enc with pending := false, ecount := 0#16 }
        sticky := { s.sticky with lenErr := true }, rdata := 0#32 }) ∧
    (s.run = true → s.encCfg.msgMode = true → s.enc.pending = true → s.enc.ecount.toNat = pe →
      ∃ frame, IsWireFrame thisCore s (s.enc.ebuf.toList.take pe) frame ∧
        exec .einvoke s = .next { s with
          enc := { s.enc with pending := false, ecount := 0#16, started := true }
          tx := s.tx ++ frame
          counters := { s.counters with framesTransmitted := s.counters.framesTransmitted + 1#32 }
          rdata := 0#32 })

/-- R257, R258, R259, R260, R261: the frame of a payload byte by byte, at any parameters. -/
def Obligations.FrameBytes : Prop :=
  ∀ (P : Params) (s : State) (p : List Byte), 1 ≤ s.encCfg.depth.toNat → s.encCfg.depth.toNat ≤ 8 →
    p.length = s.encCfg.depth.toNat * 223 →
    IsWireFrame P s p (frameOf P s p) ∧ (encodeFrame P p s).tx = s.tx ++ frameOf P s p

/-- R262: the three wire layouts and their lengths, appended to TX in that order. -/
def Obligations.FrameLengths : Prop :=
  ∀ (P : Params) (s : State) (p : List Byte), 1 ≤ s.encCfg.depth.toNat → s.encCfg.depth.toNat ≤ 8 →
    (encodeFrame P p s).tx = s.tx ++ frameOf P s p ∧
    (s.encCfg.tail = false → ∃ ecw, frameOf P s p = wireMarker s.syncWord ++ ecw ∧
      ecw.length = 255 * s.encCfg.depth.toNat ∧ (frameOf P s p).length = 4 + 255 * s.encCfg.depth.toNat) ∧
    (s.encCfg.tail = true → s.enc.started = true → ∃ ecw, frameOf P s p = ecw ++ wireMarker s.syncWord ∧
      ecw.length = 255 * s.encCfg.depth.toNat ∧ (frameOf P s p).length = 255 * s.encCfg.depth.toNat + 4) ∧
    (s.encCfg.tail = true → s.enc.started = false →
      ∃ ecw, frameOf P s p = wireMarker s.syncWord ++ ecw ++ wireMarker s.syncWord ∧
        ecw.length = 255 * s.encCfg.depth.toNat ∧ (frameOf P s p).length = 255 * s.encCfg.depth.toNat + 8)

/-- The frame of EBYTE, EMSG and EINVOKE: what feeding the encoder never changes (R618, the spec's own inference),
and that all complete. -/
def Obligations.EncoderCommandsFrame : Prop :=
  ∀ (s : State) (i : Instr), isEncoderCommand i = true →
    ∃ t, exec i s = .next t ∧
      t.run = s.run ∧ t.decCfg = s.decCfg ∧ t.encCfg = s.encCfg ∧ t.syncWord = s.syncWord ∧ t.dec = s.dec ∧
      t.last = s.last ∧ t.rx = s.rx ∧ t.rdata = 0#32 ∧ t.port = s.port ∧
      t.counters.framesReceived = s.counters.framesReceived ∧
      t.counters.framesDecoded = s.counters.framesDecoded ∧
      t.counters.subframesDecoded = s.counters.subframesDecoded ∧
      t.counters.fillFramesDecoded = s.counters.fillFramesDecoded ∧
      t.sticky.uncorr = s.sticky.uncorr ∧ t.sticky.cfgErr = s.sticky.cfgErr ∧
      (s.run = false → t = turnedAway s)

/-! ### Interleaving and scrambling -/

/-- R300: the address formula, and its range. -/
def Obligations.InterleavePositions : Prop :=
  ∀ n blen i j : Nat, i < n → j < blen →
    pos .ilv n blen i j = i + j * n ∧ pos .contig n blen i j = i * blen + j ∧
    pos .ilv n blen i j < n * blen ∧ pos .contig n blen i j < n * blen

/-- The address map is a bijection in both modes, and the two modes agree at depth 1 (the spec's own inferences,
R302, R304, R305). -/
def Obligations.InterleaveIsABijection : Prop :=
  (∀ (mode : Layout) (n blen k : Nat), k < n * blen →
    ∃ ij : Nat × Nat, (ij.1 < n ∧ ij.2 < blen ∧ pos mode n blen ij.1 ij.2 = k) ∧
      ∀ ij' : Nat × Nat, ij'.1 < n → ij'.2 < blen → pos mode n blen ij'.1 ij'.2 = k → ij' = ij) ∧
  (∀ blen j : Nat, pos .ilv 1 blen 0 j = pos .contig 1 blen 0 j) ∧
  (∀ n i j : Nat, i < n → (pos .ilv n 223 i j = pos .ilv n 255 i j ∧ (pos .ilv n 255 i j < 223 * n ↔ j < 223)))

/-- Extracting what was inserted gives it back, in both modes, and insertion touches no other sub-block (the
spec's own inference, R303). -/
def Obligations.ExtractAfterInsert : Prop :=
  ∀ (m : Nat) (mode : Layout) (n blen i : Nat) (blk : Vector Byte blen) (buf : Vector Byte m),
    i < n → n * blen ≤ m →
    extractBlock mode n blen i (insertBlock mode n blen i blk buf) = blk ∧
    ∀ i' < n, i' ≠ i →
      extractBlock mode n blen i' (insertBlock mode n blen i blk buf) = extractBlock mode n blen i' buf

/-- R320 and the self-inverse property, the spec's own inference (R324): byte `k` is xored with
`COVER[k mod 255]`, nothing beyond the length changes, and doing it twice gives the buffer back, for every value
of the parameter COVER. -/
def Obligations.ScrambleIsItsOwnInverse : Prop :=
  ∀ (C : Cover) (m len : Nat) (buf : Vector Byte m),
    (∀ k < m, k < len →
      bufRead (scramble C len buf) k = bufRead buf k ^^^ C ⟨k % 255, Nat.mod_lt k (by decide)⟩) ∧
    (∀ k, len ≤ k → bufRead (scramble C len buf) k = bufRead buf k) ∧
    scramble C len (scramble C len buf) = buf

/-- This hardware's value of COVER is the table, which is the output of the generator, whose register returns to
its seed after 255 bytes (the sequence is the spec's default from general knowledge, log 8). -/
def Obligations.CoverIsTheGeneratorsOutput : Prop :=
  List.ofFn thisCore.cover = coverTable ∧ lfsrBytes 255 lfsrSeed = coverTable ∧
  coverTable.take 5 = [0xFF#8, 0x48#8, 0x0E#8, 0xC0#8, 0x9A#8] ∧
  (List.range 255).foldl (fun r _ => (lfsrByte r).2) lfsrSeed = lfsrSeed

/-! ### Whole-machine rules -/

/-- The configuration lock: but for a hardware reset, no step changes the configuration while RUN = 1, and
none processes data while RUN = 0: nothing is emitted, the decoder and the encoder (buffers included) are unchanged
or both as DatapathInit leaves them, and the counters and the results are unchanged or cleared. -/
def Obligations.ConfigurationLock : Prop :=
  ∀ s t : State, nextIsReset s = false → step s = .next t →
    (s.run = true → t.decCfg = s.decCfg ∧ t.encCfg = s.encCfg ∧ t.syncWord = s.syncWord) ∧
    (s.run = false →
      t.rx = s.rx ∧ t.tx = s.tx ∧
      ((t.dec = s.dec ∧ t.enc = s.enc) ∨
        (t.dec = { s.dec with dstate := .syncSearch, sr := 0#32, bitcnt := 0#3, bytecnt := 0#11 } ∧
          t.enc = { s.enc with ecount := 0#16, pending := false, started := false })) ∧
      (t.counters = s.counters ∨ t.counters = Counters.reset) ∧
      (t.last = s.last ∨ t.last = LastResult.reset))

/-- Each step appends to TX nothing, or one whole frame, which it counts; only an encoder command can (R265, the
spec's own inference). -/
def Obligations.TxGrowsByWholeFrames : Prop :=
  ∀ s t : State, CoreInv s → step s = .next t → t.tx ≠ s.tx →
    ∃ frame i, t.tx = s.tx ++ frame ∧ nextCommand s = some i ∧ isEncoderCommand i = true ∧ s.run = true ∧
      frame.length = 4 + 255 * s.encCfg.depth.toNat + (if s.encCfg.tail && !s.enc.started then 4 else 0) ∧
      t.counters.framesTransmitted = s.counters.framesTransmitted + 1#32 ∧ t.enc.started = true

/-- Each step makes at most one decode attempt, a batch of 16 bits included, so it publishes at most one
payload, of the configured length, and only when a frame was decoded (R224, the spec's own inference). -/
def Obligations.RxGrowsByOnePayload : Prop :=
  ∀ s t : State, CoreInv s → step s = .next t →
    (t.rx = s.rx ∨ ∃ p, t.rx = s.rx ++ [p] ∧ p.length = s.decCfg.depth.toNat * 223 ∧
      t.counters.framesDecoded = s.counters.framesDecoded + 1#32 ∧ t.last.ok = true ∧ t.last.fillFast = false) ∧
    (t.counters.framesDecoded = s.counters.framesDecoded ∨
      t.counters.framesDecoded = s.counters.framesDecoded + 1#32 ∨ t.counters.framesDecoded = 0#32)

/-- Counters only advance, by bounded amounts, unless CNTCLR, REINIT or a hardware reset zeroes them. A batch
declares sync at most once, since a codeword is longer than a batch. -/
def Obligations.CountersOnlyAdvance : Prop :=
  ∀ s t : State, CoreInv s → step s = .next t → nextIsReset s = false →
    nextCommand s ≠ some .cntclr → nextCommand s ≠ some .reinit →
    (∃ k ≤ 1, t.counters.framesReceived = s.counters.framesReceived + BitVec.ofNat 32 k) ∧
    (∃ k ≤ 1, t.counters.framesDecoded = s.counters.framesDecoded + BitVec.ofNat 32 k) ∧
    (∃ k ≤ 8, t.counters.subframesDecoded = s.counters.subframesDecoded + BitVec.ofNat 32 k) ∧
    (∃ k ≤ 1, t.counters.fillFramesDecoded = s.counters.fillFramesDecoded + BitVec.ofNat 32 k) ∧
    (∃ k ≤ 1, t.counters.framesTransmitted = s.counters.framesTransmitted + BitVec.ofNat 32 k)

/-- R50: who sets and who clears each sticky bit. -/
def Obligations.StickyBitsSetAndCleared : Prop :=
  ∀ (s t : State) (k : Nat) (bit : Sticky → Bool),
    (k, bit) ∈ [(8, Sticky.uncorr), (9, Sticky.msgErr), (10, Sticky.lenErr), (11, Sticky.cmdErr),
      (12, Sticky.cfgErr)] → step s = .next t →
    (bit s.sticky = true → bit t.sticky = false →
      (∃ v, nextCommand s = some (.csrw 0x04#8 v) ∧ v.getLsbD k = true) ∨ nextCommand s = some .reinit ∨
        nextIsReset s = true) ∧
    (bit s.sticky = false → bit t.sticky = true →
      (k = 8 ∧ (∃ i, nextCommand s = some i ∧ isDecoderCommand i = true) ∧ s.run = true ∧
        s.decCfg.rsEn = true) ∨
      (k = 9 ∧ nextCommand s = some .einvoke ∧ s.enc.pending = false ∧ s.encCfg.idleEn = false) ∨
      (k = 10 ∧ nextCommand s = some .einvoke ∧ s.enc.pending = true ∧
        s.enc.ecount.toNat ≠ s.encCfg.depth.toNat * 223) ∨
      (k = 11 ∧ (nextCommand s = none ∨ ∃ i, nextCommand s = some i ∧ isData i = true ∧
        (s.run = false ∨ isEncoderCommand i = true))) ∨
      (k = 12 ∧ ∃ a v, nextCommand s = some (.csrw a v) ∧ 1 ≤ a.toNat ∧ a.toNat ≤ 3))

/-- The result registers are written by decode attempts and cleared by REINIT and hardware reset, and by
nothing else: a step that makes an attempt feeds the decoder, which is within a codeword, at least the bits that
complete it. -/
def Obligations.ResultsKeptBetweenAttempts : Prop :=
  ∀ s t : State, CoreInv s → step s = .next t → t.last ≠ s.last →
    nextIsReset s = true ∨ nextCommand s = some .reinit ∨
      ∃ i, nextCommand s = some i ∧ isDecoderCommand i = true ∧ s.run = true ∧ s.dec.dstate = .codeword ∧
        s.decCfg.depth.toNat * 255 * 8 ≤ s.dec.bytecnt.toNat * 8 + s.dec.bitcnt.toNat + bitsFed i ∧
        t.last.valid = true

/-- R200: the initial state, the decoder's transitions, and the only other ways out of a state. -/
def Obligations.DecoderStateTransitions : Prop :=
  State.reset.dec.dstate = .syncSearch ∧
  (∀ (s : State) (b : Bool), CoreInv s → s.run = true → ∃ t, exec (.dbit b) s = .next t ∧
    (s.dec.dstate = .syncSearch →
      (t.dec.dstate = .codeword ↔ hamming (shiftIn s.dec.sr b) s.syncWord ≤ s.decCfg.t.toNat)) ∧
    (s.dec.dstate = .codeword →
      (t.dec.dstate = .syncSearch ↔
        s.dec.bitcnt.toNat = 7 ∧ s.dec.bytecnt.toNat + 1 = s.decCfg.depth.toNat * 255))) ∧
  (∀ s t : State, step s = .next t → t.dec.dstate ≠ s.dec.dstate →
    (s.run = true ∧ ∃ i, nextCommand s = some i ∧ isDecoderCommand i = true) ∨
    (t.dec.dstate = .syncSearch ∧ (nextIsReset s = true ∨ nextCommand s = some .reinit ∨
      (s.run = false ∧ ∃ v, nextCommand s = some (.csrw 0x00#8 v) ∧ v.getLsbD 0 = true))))

/-- No command but a register read depends on a sticky bit, a last-decode result or IDLE_GAP: changing them
changes nothing else of what a command does (R75, the spec's own inference). -/
def Obligations.RecordsSteerNothing : Prop :=
  ∀ (s t : State) (i : Instr) (k : Sticky) (l : LastResult) (g : BitVec 16), exec i s = .next t →
    ∃ t', exec i { s with sticky := k, last := l, encCfg := { s.encCfg with idleGap := g } } = .next t' ∧
      { t' with
        sticky := t.sticky, last := t.last, encCfg := { t'.encCfg with idleGap := t.encCfg.idleGap }
        rdata := if i.opcode = .csrr then t.rdata else t'.rdata } = t

/-- The invariant holds at reset; and at any parameters, where the counts are within their widths too. -/
def Obligations.InvariantAtReset : Prop :=
  CoreInv State.reset ∧
  ∀ P : Params, CoreInv (State.resetWith P.syncReset) ∧ FitsWidths P (State.resetWith P.syncReset)

/-- The invariant is kept by every step from every state that has it, whatever the host's input; and at any
parameters, where the counts stay within their widths too (R14, R48, R49). -/
def Obligations.EveryStepKeepsTheInvariant : Prop :=
  (∀ s t : State, CoreInv s → step s = .next t → CoreInv t) ∧
  ∀ (P : Params) (s t : State), CoreInv s → FitsWidths P s → stepAt P s = .next t → CoreInv t ∧ FitsWidths P t

/-- The unspecified reset contents of the buffers cannot be observed: two states that differ at most in dead
buffer bytes take the same steps, with the same responses, registers and outputs (R45, R46, R49, R76; so the
values of log 4 decide nothing). -/
def Obligations.DeadBufferBytesAreUnobservable : Prop :=
  ∀ s s' t : State, CoreInv s → SameButDeadBytes s s' → step s = .next t →
    ∃ t', step s' = .next t' ∧ SameButDeadBytes t t'

/-! ### End to end -/

/-- The round trip (R615, the spec's own inference), at any parameters: a payload fed to the encoder in stream
mode and its frame fed bit by bit to the decoder, both configured alike. Normal mode, and tail mode for the first
frame, whose trailing marker is found too. A payload that begins with two zero bytes counts as fill and is not
published. The depth is legal for the core; at this hardware's P_MAX_I the invariant says so. -/
def Obligations.RoundTrip : Prop :=
  ∀ (P : Params) (s : State) (p : List Byte), CoreInv s → s.encCfg.depth.toNat ≤ P.pMaxI → s.run = true →
    s.encCfg.msgMode = false → s.enc.ecount = 0#16 → s.dec.dstate = .syncSearch → s.dec.sr = 0#32 →
    (s.encCfg.tail = true → s.enc.started = false) →
    SameProfile s.decCfg s.encCfg → NoEarlyLock s.syncWord s.decCfg.t →
    (s.decCfg.rsEn = false ∨ (s.encCfg.rsEn = true ∧ P.engine.NoOpOnCodeword)) →
    p.length = s.encCfg.depth.toNat * 223 →
    ∃ (t u : State) (frame : List Byte), applyAll P (p.map .ebyte) s = t ∧ t.tx = s.tx ++ frame ∧
      applyAll P ((wireBits frame).map .dbit) t = u ∧
      u.rx = (if p[0]? = some 0#8 ∧ p[1]? = some 0#8 then s.rx else s.rx ++ [p]) ∧
      u.tx = t.tx ∧ u.last.ok = true ∧ u.last.failMask = 0#8 ∧ u.last.corr = 0#32 ∧
      u.counters =
        { framesTransmitted := countOn P.cntWidth 1 s.counters.framesTransmitted
          framesReceived := countOn P.cntWidth (if s.encCfg.tail then 2 else 1) s.counters.framesReceived
          framesDecoded := countOn P.cntWidth 1 s.counters.framesDecoded
          subframesDecoded :=
            countOn P.cntWidth (if s.decCfg.rsEn then s.decCfg.depth.toNat else 0) s.counters.subframesDecoded
          fillFramesDecoded :=
            countOn P.cntWidth (if p[0]? = some 0#8 ∧ p[1]? = some 0#8 then 1 else 0)
              s.counters.fillFramesDecoded } ∧
      u.dec.dstate = (if s.encCfg.tail then .codeword else .syncSearch) ∧
      u.dec.bitcnt = 0#3 ∧ u.dec.bytecnt = 0#11 ∧
      (P = thisCore → execAll (p.map .ebyte) s = .next t ∧ execAll ((wireBits frame).map .dbit) t = .next u)

/-- Noise tolerance, for any engine that corrects `t` errors per block: a received codeword whose every
sub-block differs from the encoded one in at most `t` bytes gives the exact payload, and LAST_CORR counts the
differences. -/
def Obligations.NoiseToleratedUpToTheEnginesLimit : Prop :=
  ∀ (P : Params) (t : Nat) (s : State) (c : EncCfg) (p : List Byte), P.engine.Corrects t →
    1 ≤ s.decCfg.depth.toNat → s.decCfg.depth.toNat ≤ 8 → s.decCfg.rsEn = true → SameProfile s.decCfg c →
    p.length = c.depth.toNat * 223 →
    (∀ i < c.depth.toNat,
      diffCount (receivedBlock P.cover s i) (encodedBlock P.engine true c.dual (sentData c p i)) ≤ t) →
    (decodeFrame P s).rx = (if p[0]? = some 0#8 ∧ p[1]? = some 0#8 then s.rx else s.rx ++ [p]) ∧
    (decodeFrame P s).last.ok = true ∧ (decodeFrame P s).last.failMask = 0#8 ∧
    (decodeFrame P s).counters.framesDecoded = countOn P.cntWidth 1 s.counters.framesDecoded ∧
    (decodeFrame P s).counters.subframesDecoded =
      countOn P.cntWidth c.depth.toNat s.counters.subframesDecoded ∧
    (decodeFrame P s).last.corr = BitVec.ofNat 32 ((List.range c.depth.toNat).map fun i =>
      diffCount (receivedBlock P.cover s i) (encodedBlock P.engine true c.dual (sentData c p i))).sum
end

