-- ==== Sys2Proof/Laws/Buffers.lean ====
section
/-! SUPPORT. The buffers: reading after writing, the address map as a bijection (spec/42_interleave.md R302),
moving blocks in and out (R303), and the scrambler byte by byte (spec/43_scrambler.md R320). -/

namespace Sys2Proof

namespace Machine

/-! ### One byte -/

variable {m b : Nat}

theorem bufRead_of_lt (buf : Vector Byte m) {k : Nat} (h : k < m) : bufRead buf k = buf[k] := by
  simp [bufRead, h]

theorem bufRead_of_le (buf : Vector Byte m) {k : Nat} (h : m ≤ k) : bufRead buf k = 0#8 := by
  simp [bufRead, h]

theorem bufRead_bufWrite (buf : Vector Byte m) (k l : Nat) (v : Byte) :
    bufRead (bufWrite buf k v) l = if k = l ∧ l < m then v else bufRead buf l := by
  by_cases hl : l < m
  · by_cases hk : k = l <;> simp [bufRead, bufWrite, hl, hk]
  · simp [bufRead, bufWrite, hl]

theorem bufRead_bufWrite_self (buf : Vector Byte m) {k : Nat} (v : Byte) (h : k < m) :
    bufRead (bufWrite buf k v) k = v := by simp [bufRead_bufWrite, h]

theorem bufRead_bufWrite_of_ne (buf : Vector Byte m) {k l : Nat} (v : Byte) (h : k ≠ l) :
    bufRead (bufWrite buf k v) l = bufRead buf l := by simp [bufRead_bufWrite, h]

@[simp] theorem bufRead_replicate_zero (k : Nat) : bufRead (Vector.replicate m (0#8 : Byte)) k = 0#8 := by
  by_cases h : k < m
  · simp [bufRead, h]
  · exact bufRead_of_le _ (by omega)

@[simp] theorem bufRead_ofFn (f : Fin m → Byte) {k : Nat} (h : k < m) :
    bufRead (Vector.ofFn f) k = f ⟨k, h⟩ := by simp [bufRead, h]

/-- Two buffers that read the same everywhere are the same buffer. -/
theorem buf_ext {x y : Vector Byte m} (h : ∀ k < m, bufRead x k = bufRead y k) : x = y := by
  ext k hk
  have := h k hk
  rw [bufRead_of_lt x hk, bufRead_of_lt y hk] at this
  rw [this]

/-- A prefix of a buffer as a list, byte by byte. -/
theorem getElem?_take_toList (buf : Vector Byte m) {n k : Nat} (hk : k < n) (hn : n ≤ m) :
    (buf.toList.take n)[k]? = some (bufRead buf k) := by
  have hm : k < m := by omega
  simp [hk, bufRead, hm]

theorem length_take_toList (buf : Vector Byte m) {n : Nat} (hn : n ≤ m) : (buf.toList.take n).length = n := by
  simp [hn]

/-- Two buffers that agree on a prefix have the same prefix. -/
theorem take_toList_congr {x y : Vector Byte m} {n : Nat} (h : ∀ k < n, bufRead x k = bufRead y k) :
    x.toList.take n = y.toList.take n := by
  apply List.ext_getElem?
  intro k
  by_cases hk : k < n
  · by_cases hm : k < m
    · have := h k hk
      rw [bufRead_of_lt x hm, bufRead_of_lt y hm] at this
      simp [hk, hm, this]
    · simp [hk, hm]
  · simp [hk]

/-! ### The address map (R300, R302) -/

/-- The result is an index of the buffer (R300). -/
theorem pos_lt (mode : Layout) {n blen i j : Nat} (hi : i < n) (hj : j < blen) :
    pos mode n blen i j < n * blen := by
  cases mode with
  | ilv =>
    have : (j + 1) * n ≤ blen * n := Nat.mul_le_mul_right n (by omega)
    have e : (j + 1) * n = j * n + n := by ring
    have e' : blen * n = n * blen := by ring
    simp only [pos]; omega
  | contig =>
    have : (i + 1) * blen ≤ n * blen := Nat.mul_le_mul_right blen (by omega)
    have e : (i + 1) * blen = i * blen + blen := by ring
    simp only [pos]; omega

/-- No two bytes share a place (R302). -/
theorem pos_inj (mode : Layout) {n blen i j i' j' : Nat} (hi : i < n) (hj : j < blen) (hi' : i' < n)
    (hj' : j' < blen) (h : pos mode n blen i j = pos mode n blen i' j') : i = i' ∧ j = j' := by
  cases mode with
  | ilv =>
    simp only [pos] at h
    have hm := congrArg (· % n) h
    have hd := congrArg (· / n) h
    have hn : 0 < n := by omega
    simp only [Nat.add_mul_mod_self_right, Nat.mod_eq_of_lt hi, Nat.mod_eq_of_lt hi',
      Nat.add_mul_div_right _ _ hn, Nat.div_eq_of_lt hi, Nat.div_eq_of_lt hi', Nat.zero_add] at hm hd
    exact ⟨hm, hd⟩
  | contig =>
    simp only [pos] at h
    rw [Nat.add_comm (i * blen), Nat.add_comm (i' * blen)] at h
    have hm := congrArg (· % blen) h
    have hd := congrArg (· / blen) h
    have hn : 0 < blen := by omega
    simp only [Nat.add_mul_mod_self_right, Nat.mod_eq_of_lt hj, Nat.mod_eq_of_lt hj',
      Nat.add_mul_div_right _ _ hn, Nat.div_eq_of_lt hj, Nat.div_eq_of_lt hj', Nat.zero_add] at hm hd
    exact ⟨hd, hm⟩

/-- Every place is some byte's (R302). -/
theorem pos_surj (mode : Layout) {n blen k : Nat} (hk : k < n * blen) :
    ∃ i j, i < n ∧ j < blen ∧ pos mode n blen i j = k := by
  have hn : 0 < n := by
    rcases Nat.eq_zero_or_pos n with h | h
    · subst h; omega
    · exact h
  have hb : 0 < blen := by
    rcases Nat.eq_zero_or_pos blen with h | h
    · subst h; omega
    · exact h
  cases mode with
  | ilv =>
    refine ⟨k % n, k / n, Nat.mod_lt _ hn, Nat.div_lt_of_lt_mul hk, ?_⟩
    have := Nat.mod_add_div k n
    simp only [pos]; rw [Nat.mul_comm]; exact this
  | contig =>
    refine ⟨k / blen, k % blen, Nat.div_lt_of_lt_mul (by rw [Nat.mul_comm]; exact hk), Nat.mod_lt _ hb, ?_⟩
    have := Nat.div_add_mod k blen
    simp only [pos]; rw [Nat.mul_comm]; exact this

/-! ### Whole blocks (R217, R219, R303) -/

@[simp] theorem bufRead_extractBlock (mode : Layout) (n blen i : Nat) (buf : Vector Byte m) {j : Nat}
    (hj : j < blen) : bufRead (extractBlock mode n blen i buf) j = bufRead buf (pos mode n blen i j) := by
  simp [extractBlock, hj]

/-- Two buffers that agree on the codeword give the same block. -/
theorem extractBlock_congr (mode : Layout) {n blen i : Nat} {x y : Vector Byte m} (hi : i < n)
    (h : ∀ k < n * blen, bufRead x k = bufRead y k) :
    extractBlock mode n blen i x = extractBlock mode n blen i y := by
  apply buf_ext
  intro j hj
  simp [hj, h _ (pos_lt mode hi hj)]

theorem foldl_bufWrite_of_ne (f : Nat → Nat) (g : Nat → Byte) (l : List Nat) (buf : Vector Byte m) (k : Nat)
    (h : ∀ j ∈ l, f j ≠ k) : bufRead (l.foldl (fun acc j => bufWrite acc (f j) (g j)) buf) k = bufRead buf k := by
  induction l generalizing buf with
  | nil => rfl
  | cons a l ih =>
    rw [List.foldl_cons, ih _ (fun j hj => h j (List.mem_cons_of_mem _ hj)),
      bufRead_bufWrite_of_ne _ _ (h a List.mem_cons_self)]

/-- A place that is no byte's of sub-block `i` keeps its value. -/
theorem bufRead_insertBlock_of_ne (mode : Layout) (n blen i : Nat) (blk : Vector Byte b) (buf : Vector Byte m)
    (k : Nat) (h : ∀ j < blen, pos mode n blen i j ≠ k) :
    bufRead (insertBlock mode n blen i blk buf) k = bufRead buf k :=
  foldl_bufWrite_of_ne (pos mode n blen i) (bufRead blk) _ _ _
    (fun j hj => h j (List.mem_range.mp hj))

/-- The places of sub-block `i` hold its bytes. -/
theorem bufRead_insertBlock_pos (mode : Layout) {n blen i j : Nat} (blk : Vector Byte b) (buf : Vector Byte m)
    (hi : i < n) (hj : j < blen) (hm : n * blen ≤ m) :
    bufRead (insertBlock mode n blen i blk buf) (pos mode n blen i j) = bufRead blk j := by
  have key : ∀ l ≤ blen, j < l →
      bufRead ((List.range l).foldl (fun acc j => bufWrite acc (pos mode n blen i j) (bufRead blk j)) buf)
        (pos mode n blen i j) = bufRead blk j := by
    intro l
    induction l with
    | zero => intro _ h; omega
    | succ l ih =>
      intro hl hjl
      rw [List.range_succ, List.foldl_append, List.foldl_cons, List.foldl_nil]
      by_cases hjl' : j = l
      · subst hjl'
        exact bufRead_bufWrite_self _ _ (Nat.lt_of_lt_of_le (pos_lt mode hi hj) hm)
      · rw [bufRead_bufWrite_of_ne _ _ (fun h => hjl' ((pos_inj mode hi (by omega) hi hj h).2.symm))]
        exact ih (by omega) (by omega)
  exact key blen (Nat.le_refl _) hj

/-- Blocks inserted one after another: the loop over the sub-blocks `0, …, c - 1`. -/
def insertBlocks (mode : Layout) (n blen : Nat) (blks : Nat → Vector Byte b) (c : Nat) (buf : Vector Byte m) :
    Vector Byte m :=
  (List.range c).foldl (fun acc i => insertBlock mode n blen i (blks i) acc) buf

theorem insertBlocks_succ (mode : Layout) (n blen : Nat) (blks : Nat → Vector Byte b) (c : Nat)
    (buf : Vector Byte m) :
    insertBlocks mode n blen blks (c + 1) buf =
      insertBlock mode n blen c (blks c) (insertBlocks mode n blen blks c buf) := by
  simp [insertBlocks, List.range_succ]

/-- After the loop every place of an inserted sub-block holds its byte (R302). -/
theorem bufRead_insertBlocks_pos (mode : Layout) {n blen i j : Nat} (blks : Nat → Vector Byte b)
    (buf : Vector Byte m) (c : Nat) (hc : c ≤ n) (hi : i < c) (hj : j < blen) (hm : n * blen ≤ m) :
    bufRead (insertBlocks mode n blen blks c buf) (pos mode n blen i j) = bufRead (blks i) j := by
  induction c with
  | zero => omega
  | succ c ih =>
    rw [insertBlocks_succ]
    by_cases h : i = c
    · subst h; exact bufRead_insertBlock_pos mode _ _ (by omega) hj hm
    · rw [bufRead_insertBlock_of_ne]
      · exact ih (by omega) (by omega)
      · intro j' hj' he
        exact h (pos_inj mode (by omega) hj' (by omega) hj he).1.symm

/-- The loop changes nothing beyond the `n * blen` bytes it addresses. -/
theorem bufRead_insertBlocks_of_le (mode : Layout) {n blen k : Nat} (blks : Nat → Vector Byte b)
    (buf : Vector Byte m) (c : Nat) (hc : c ≤ n) (hk : n * blen ≤ k) :
    bufRead (insertBlocks mode n blen blks c buf) k = bufRead buf k := by
  induction c with
  | zero => rfl
  | succ c ih =>
    rw [insertBlocks_succ, bufRead_insertBlock_of_ne _ _ _ _ _ _ _ (fun j hj h => ?_), ih (by omega)]
    have := pos_lt mode (show c < n by omega) hj
    omega

/-! ### The scrambler (R320) -/

theorem bufRead_scramble (C : Cover) (len : Nat) (buf : Vector Byte m) {k : Nat} (hk : k < m) :
    bufRead (scramble C len buf) k = if k < len then bufRead buf k ^^^ coverAt C k else bufRead buf k := by
  simp [bufRead_of_lt _ hk, scramble]

end Machine

end Sys2Proof
end

