-- ==== Sys2Proof/Laws/State.lean ====
section
/-! SUPPORT. What each writer of a field does to every field of the state: the field itself takes the value,
the others keep theirs. -/

namespace Sys2Proof

namespace Machine

section
variable (s : State) (v : Bool)

@[simp] theorem State.withRun_run : (s.withRun v).run = v := rfl
@[simp] theorem State.withRun_decCfg : (s.withRun v).decCfg = s.decCfg := rfl
@[simp] theorem State.withRun_encCfg : (s.withRun v).encCfg = s.encCfg := rfl
@[simp] theorem State.withRun_syncWord : (s.withRun v).syncWord = s.syncWord := rfl
@[simp] theorem State.withRun_dec : (s.withRun v).dec = s.dec := rfl
@[simp] theorem State.withRun_last : (s.withRun v).last = s.last := rfl
@[simp] theorem State.withRun_counters : (s.withRun v).counters = s.counters := rfl
@[simp] theorem State.withRun_enc : (s.withRun v).enc = s.enc := rfl
@[simp] theorem State.withRun_sticky : (s.withRun v).sticky = s.sticky := rfl
@[simp] theorem State.withRun_rx : (s.withRun v).rx = s.rx := rfl
@[simp] theorem State.withRun_tx : (s.withRun v).tx = s.tx := rfl
@[simp] theorem State.withRun_rdata : (s.withRun v).rdata = s.rdata := rfl
@[simp] theorem State.withRun_port : (s.withRun v).port = s.port := rfl

end

section
variable (s : State) (v : DecCfg)

@[simp] theorem State.withDecCfg_run : (s.withDecCfg v).run = s.run := rfl
@[simp] theorem State.withDecCfg_decCfg : (s.withDecCfg v).decCfg = v := rfl
@[simp] theorem State.withDecCfg_encCfg : (s.withDecCfg v).encCfg = s.encCfg := rfl
@[simp] theorem State.withDecCfg_syncWord : (s.withDecCfg v).syncWord = s.syncWord := rfl
@[simp] theorem State.withDecCfg_dec : (s.withDecCfg v).dec = s.dec := rfl
@[simp] theorem State.withDecCfg_last : (s.withDecCfg v).last = s.last := rfl
@[simp] theorem State.withDecCfg_counters : (s.withDecCfg v).counters = s.counters := rfl
@[simp] theorem State.withDecCfg_enc : (s.withDecCfg v).enc = s.enc := rfl
@[simp] theorem State.withDecCfg_sticky : (s.withDecCfg v).sticky = s.sticky := rfl
@[simp] theorem State.withDecCfg_rx : (s.withDecCfg v).rx = s.rx := rfl
@[simp] theorem State.withDecCfg_tx : (s.withDecCfg v).tx = s.tx := rfl
@[simp] theorem State.withDecCfg_rdata : (s.withDecCfg v).rdata = s.rdata := rfl
@[simp] theorem State.withDecCfg_port : (s.withDecCfg v).port = s.port := rfl

end

section
variable (s : State) (v : EncCfg)

@[simp] theorem State.withEncCfg_run : (s.withEncCfg v).run = s.run := rfl
@[simp] theorem State.withEncCfg_decCfg : (s.withEncCfg v).decCfg = s.decCfg := rfl
@[simp] theorem State.withEncCfg_encCfg : (s.withEncCfg v).encCfg = v := rfl
@[simp] theorem State.withEncCfg_syncWord : (s.withEncCfg v).syncWord = s.syncWord := rfl
@[simp] theorem State.withEncCfg_dec : (s.withEncCfg v).dec = s.dec := rfl
@[simp] theorem State.withEncCfg_last : (s.withEncCfg v).last = s.last := rfl
@[simp] theorem State.withEncCfg_counters : (s.withEncCfg v).counters = s.counters := rfl
@[simp] theorem State.withEncCfg_enc : (s.withEncCfg v).enc = s.enc := rfl
@[simp] theorem State.withEncCfg_sticky : (s.withEncCfg v).sticky = s.sticky := rfl
@[simp] theorem State.withEncCfg_rx : (s.withEncCfg v).rx = s.rx := rfl
@[simp] theorem State.withEncCfg_tx : (s.withEncCfg v).tx = s.tx := rfl
@[simp] theorem State.withEncCfg_rdata : (s.withEncCfg v).rdata = s.rdata := rfl
@[simp] theorem State.withEncCfg_port : (s.withEncCfg v).port = s.port := rfl

end

section
variable (s : State) (v : Word)

@[simp] theorem State.withSyncWord_run : (s.withSyncWord v).run = s.run := rfl
@[simp] theorem State.withSyncWord_decCfg : (s.withSyncWord v).decCfg = s.decCfg := rfl
@[simp] theorem State.withSyncWord_encCfg : (s.withSyncWord v).encCfg = s.encCfg := rfl
@[simp] theorem State.withSyncWord_syncWord : (s.withSyncWord v).syncWord = v := rfl
@[simp] theorem State.withSyncWord_dec : (s.withSyncWord v).dec = s.dec := rfl
@[simp] theorem State.withSyncWord_last : (s.withSyncWord v).last = s.last := rfl
@[simp] theorem State.withSyncWord_counters : (s.withSyncWord v).counters = s.counters := rfl
@[simp] theorem State.withSyncWord_enc : (s.withSyncWord v).enc = s.enc := rfl
@[simp] theorem State.withSyncWord_sticky : (s.withSyncWord v).sticky = s.sticky := rfl
@[simp] theorem State.withSyncWord_rx : (s.withSyncWord v).rx = s.rx := rfl
@[simp] theorem State.withSyncWord_tx : (s.withSyncWord v).tx = s.tx := rfl
@[simp] theorem State.withSyncWord_rdata : (s.withSyncWord v).rdata = s.rdata := rfl
@[simp] theorem State.withSyncWord_port : (s.withSyncWord v).port = s.port := rfl

end

section
variable (s : State) (v : Decoder)

@[simp] theorem State.withDec_run : (s.withDec v).run = s.run := rfl
@[simp] theorem State.withDec_decCfg : (s.withDec v).decCfg = s.decCfg := rfl
@[simp] theorem State.withDec_encCfg : (s.withDec v).encCfg = s.encCfg := rfl
@[simp] theorem State.withDec_syncWord : (s.withDec v).syncWord = s.syncWord := rfl
@[simp] theorem State.withDec_dec : (s.withDec v).dec = v := rfl
@[simp] theorem State.withDec_last : (s.withDec v).last = s.last := rfl
@[simp] theorem State.withDec_counters : (s.withDec v).counters = s.counters := rfl
@[simp] theorem State.withDec_enc : (s.withDec v).enc = s.enc := rfl
@[simp] theorem State.withDec_sticky : (s.withDec v).sticky = s.sticky := rfl
@[simp] theorem State.withDec_rx : (s.withDec v).rx = s.rx := rfl
@[simp] theorem State.withDec_tx : (s.withDec v).tx = s.tx := rfl
@[simp] theorem State.withDec_rdata : (s.withDec v).rdata = s.rdata := rfl
@[simp] theorem State.withDec_port : (s.withDec v).port = s.port := rfl

end

section
variable (s : State) (v : LastResult)

@[simp] theorem State.withLast_run : (s.withLast v).run = s.run := rfl
@[simp] theorem State.withLast_decCfg : (s.withLast v).decCfg = s.decCfg := rfl
@[simp] theorem State.withLast_encCfg : (s.withLast v).encCfg = s.encCfg := rfl
@[simp] theorem State.withLast_syncWord : (s.withLast v).syncWord = s.syncWord := rfl
@[simp] theorem State.withLast_dec : (s.withLast v).dec = s.dec := rfl
@[simp] theorem State.withLast_last : (s.withLast v).last = v := rfl
@[simp] theorem State.withLast_counters : (s.withLast v).counters = s.counters := rfl
@[simp] theorem State.withLast_enc : (s.withLast v).enc = s.enc := rfl
@[simp] theorem State.withLast_sticky : (s.withLast v).sticky = s.sticky := rfl
@[simp] theorem State.withLast_rx : (s.withLast v).rx = s.rx := rfl
@[simp] theorem State.withLast_tx : (s.withLast v).tx = s.tx := rfl
@[simp] theorem State.withLast_rdata : (s.withLast v).rdata = s.rdata := rfl
@[simp] theorem State.withLast_port : (s.withLast v).port = s.port := rfl

end

section
variable (s : State) (v : Counters)

@[simp] theorem State.withCounters_run : (s.withCounters v).run = s.run := rfl
@[simp] theorem State.withCounters_decCfg : (s.withCounters v).decCfg = s.decCfg := rfl
@[simp] theorem State.withCounters_encCfg : (s.withCounters v).encCfg = s.encCfg := rfl
@[simp] theorem State.withCounters_syncWord : (s.withCounters v).syncWord = s.syncWord := rfl
@[simp] theorem State.withCounters_dec : (s.withCounters v).dec = s.dec := rfl
@[simp] theorem State.withCounters_last : (s.withCounters v).last = s.last := rfl
@[simp] theorem State.withCounters_counters : (s.withCounters v).counters = v := rfl
@[simp] theorem State.withCounters_enc : (s.withCounters v).enc = s.enc := rfl
@[simp] theorem State.withCounters_sticky : (s.withCounters v).sticky = s.sticky := rfl
@[simp] theorem State.withCounters_rx : (s.withCounters v).rx = s.rx := rfl
@[simp] theorem State.withCounters_tx : (s.withCounters v).tx = s.tx := rfl
@[simp] theorem State.withCounters_rdata : (s.withCounters v).rdata = s.rdata := rfl
@[simp] theorem State.withCounters_port : (s.withCounters v).port = s.port := rfl

end

section
variable (s : State) (v : Encoder)

@[simp] theorem State.withEnc_run : (s.withEnc v).run = s.run := rfl
@[simp] theorem State.withEnc_decCfg : (s.withEnc v).decCfg = s.decCfg := rfl
@[simp] theorem State.withEnc_encCfg : (s.withEnc v).encCfg = s.encCfg := rfl
@[simp] theorem State.withEnc_syncWord : (s.withEnc v).syncWord = s.syncWord := rfl
@[simp] theorem State.withEnc_dec : (s.withEnc v).dec = s.dec := rfl
@[simp] theorem State.withEnc_last : (s.withEnc v).last = s.last := rfl
@[simp] theorem State.withEnc_counters : (s.withEnc v).counters = s.counters := rfl
@[simp] theorem State.withEnc_enc : (s.withEnc v).enc = v := rfl
@[simp] theorem State.withEnc_sticky : (s.withEnc v).sticky = s.sticky := rfl
@[simp] theorem State.withEnc_rx : (s.withEnc v).rx = s.rx := rfl
@[simp] theorem State.withEnc_tx : (s.withEnc v).tx = s.tx := rfl
@[simp] theorem State.withEnc_rdata : (s.withEnc v).rdata = s.rdata := rfl
@[simp] theorem State.withEnc_port : (s.withEnc v).port = s.port := rfl

end

section
variable (s : State) (v : Sticky)

@[simp] theorem State.withSticky_run : (s.withSticky v).run = s.run := rfl
@[simp] theorem State.withSticky_decCfg : (s.withSticky v).decCfg = s.decCfg := rfl
@[simp] theorem State.withSticky_encCfg : (s.withSticky v).encCfg = s.encCfg := rfl
@[simp] theorem State.withSticky_syncWord : (s.withSticky v).syncWord = s.syncWord := rfl
@[simp] theorem State.withSticky_dec : (s.withSticky v).dec = s.dec := rfl
@[simp] theorem State.withSticky_last : (s.withSticky v).last = s.last := rfl
@[simp] theorem State.withSticky_counters : (s.withSticky v).counters = s.counters := rfl
@[simp] theorem State.withSticky_enc : (s.withSticky v).enc = s.enc := rfl
@[simp] theorem State.withSticky_sticky : (s.withSticky v).sticky = v := rfl
@[simp] theorem State.withSticky_rx : (s.withSticky v).rx = s.rx := rfl
@[simp] theorem State.withSticky_tx : (s.withSticky v).tx = s.tx := rfl
@[simp] theorem State.withSticky_rdata : (s.withSticky v).rdata = s.rdata := rfl
@[simp] theorem State.withSticky_port : (s.withSticky v).port = s.port := rfl

end

section
variable (s : State) (v : List (List Byte))

@[simp] theorem State.withRx_run : (s.withRx v).run = s.run := rfl
@[simp] theorem State.withRx_decCfg : (s.withRx v).decCfg = s.decCfg := rfl
@[simp] theorem State.withRx_encCfg : (s.withRx v).encCfg = s.encCfg := rfl
@[simp] theorem State.withRx_syncWord : (s.withRx v).syncWord = s.syncWord := rfl
@[simp] theorem State.withRx_dec : (s.withRx v).dec = s.dec := rfl
@[simp] theorem State.withRx_last : (s.withRx v).last = s.last := rfl
@[simp] theorem State.withRx_counters : (s.withRx v).counters = s.counters := rfl
@[simp] theorem State.withRx_enc : (s.withRx v).enc = s.enc := rfl
@[simp] theorem State.withRx_sticky : (s.withRx v).sticky = s.sticky := rfl
@[simp] theorem State.withRx_rx : (s.withRx v).rx = v := rfl
@[simp] theorem State.withRx_tx : (s.withRx v).tx = s.tx := rfl
@[simp] theorem State.withRx_rdata : (s.withRx v).rdata = s.rdata := rfl
@[simp] theorem State.withRx_port : (s.withRx v).port = s.port := rfl

end

section
variable (s : State) (v : List Byte)

@[simp] theorem State.withTx_run : (s.withTx v).run = s.run := rfl
@[simp] theorem State.withTx_decCfg : (s.withTx v).decCfg = s.decCfg := rfl
@[simp] theorem State.withTx_encCfg : (s.withTx v).encCfg = s.encCfg := rfl
@[simp] theorem State.withTx_syncWord : (s.withTx v).syncWord = s.syncWord := rfl
@[simp] theorem State.withTx_dec : (s.withTx v).dec = s.dec := rfl
@[simp] theorem State.withTx_last : (s.withTx v).last = s.last := rfl
@[simp] theorem State.withTx_counters : (s.withTx v).counters = s.counters := rfl
@[simp] theorem State.withTx_enc : (s.withTx v).enc = s.enc := rfl
@[simp] theorem State.withTx_sticky : (s.withTx v).sticky = s.sticky := rfl
@[simp] theorem State.withTx_rx : (s.withTx v).rx = s.rx := rfl
@[simp] theorem State.withTx_tx : (s.withTx v).tx = v := rfl
@[simp] theorem State.withTx_rdata : (s.withTx v).rdata = s.rdata := rfl
@[simp] theorem State.withTx_port : (s.withTx v).port = s.port := rfl

end

section
variable (s : State) (v : Word)

@[simp] theorem State.withRdata_run : (s.withRdata v).run = s.run := rfl
@[simp] theorem State.withRdata_decCfg : (s.withRdata v).decCfg = s.decCfg := rfl
@[simp] theorem State.withRdata_encCfg : (s.withRdata v).encCfg = s.encCfg := rfl
@[simp] theorem State.withRdata_syncWord : (s.withRdata v).syncWord = s.syncWord := rfl
@[simp] theorem State.withRdata_dec : (s.withRdata v).dec = s.dec := rfl
@[simp] theorem State.withRdata_last : (s.withRdata v).last = s.last := rfl
@[simp] theorem State.withRdata_counters : (s.withRdata v).counters = s.counters := rfl
@[simp] theorem State.withRdata_enc : (s.withRdata v).enc = s.enc := rfl
@[simp] theorem State.withRdata_sticky : (s.withRdata v).sticky = s.sticky := rfl
@[simp] theorem State.withRdata_rx : (s.withRdata v).rx = s.rx := rfl
@[simp] theorem State.withRdata_tx : (s.withRdata v).tx = s.tx := rfl
@[simp] theorem State.withRdata_rdata : (s.withRdata v).rdata = v := rfl
@[simp] theorem State.withRdata_port : (s.withRdata v).port = s.port := rfl

end

section
variable (s : State) (v : List HostInput)

@[simp] theorem State.withPort_run : (s.withPort v).run = s.run := rfl
@[simp] theorem State.withPort_decCfg : (s.withPort v).decCfg = s.decCfg := rfl
@[simp] theorem State.withPort_encCfg : (s.withPort v).encCfg = s.encCfg := rfl
@[simp] theorem State.withPort_syncWord : (s.withPort v).syncWord = s.syncWord := rfl
@[simp] theorem State.withPort_dec : (s.withPort v).dec = s.dec := rfl
@[simp] theorem State.withPort_last : (s.withPort v).last = s.last := rfl
@[simp] theorem State.withPort_counters : (s.withPort v).counters = s.counters := rfl
@[simp] theorem State.withPort_enc : (s.withPort v).enc = s.enc := rfl
@[simp] theorem State.withPort_sticky : (s.withPort v).sticky = s.sticky := rfl
@[simp] theorem State.withPort_rx : (s.withPort v).rx = s.rx := rfl
@[simp] theorem State.withPort_tx : (s.withPort v).tx = s.tx := rfl
@[simp] theorem State.withPort_rdata : (s.withPort v).rdata = s.rdata := rfl
@[simp] theorem State.withPort_port : (s.withPort v).port = v := rfl

end

end Machine

end Sys2Proof
end

