-- ==== Sys2Proof/Laws/Ops.lean ====
section
/-! SUPPORT. Everything each shared operation does, said once as the state it gives. -/

namespace Sys2Proof

namespace Machine

variable (s : State)

/-! ### The counting primitives (R14) -/

/-- A count to the width of its register is plain addition. -/
theorem inc_self {w : Nat} (c : BitVec w) : inc w c = c + 1#w := by
  apply BitVec.eq_of_toNat_eq
  simp [inc, BitVec.toNat_add]

theorem inc_thisCore (c : BitVec Config.cntWidth) : inc thisCore.cntWidth c = c + 1#32 := inc_self c

theorem inc_thisCore_ecount (c : BitVec Config.ecntWidth) : inc thisCore.ecntWidth c = c + 1#16 := inc_self c

/-- A count stays within its width, in a register at least as wide (R14). -/
theorem toNat_inc {W w : Nat} (h : W ≤ w) (c : BitVec w) : (inc W c).toNat = (c.toNat + 1) % 2 ^ W := by
  have h1 : (c.toNat + 1) % 2 ^ W < 2 ^ W := Nat.mod_lt _ (Nat.two_pow_pos W)
  exact (BitVec.toNat_ofNat _ _).trans
    (Nat.mod_eq_of_lt (Nat.lt_of_lt_of_le h1 (Nat.pow_le_pow_right (by decide) h)))

theorem toNat_inc_lt {W w : Nat} (h : W ≤ w) (c : BitVec w) : (inc W c).toNat < 2 ^ W := by
  rw [toNat_inc h]; exact Nat.mod_lt _ (Nat.two_pow_pos W)

/-- A saturating count stops at the largest value of its width (R14). -/
theorem toNat_sat {W w : Nat} (h : W ≤ w) (c : BitVec w) : (sat W c).toNat = min (c.toNat + 1) (2 ^ W - 1) := by
  have h1 := Nat.two_pow_pos W
  have h2 : 2 ^ W ≤ 2 ^ w := Nat.pow_le_pow_right (by decide) h
  exact (BitVec.toNat_ofNat _ _).trans (Nat.mod_eq_of_lt (by omega))

/-- The count of message bytes stops at 0xFFFF (R253). -/
theorem sat_thisCore (c : BitVec Config.ecntWidth) :
    sat thisCore.ecntWidth c = if c = 0xFFFF#16 then 0xFFFF#16 else c + 1#16 := by
  apply BitVec.eq_of_toNat_eq
  rw [toNat_sat (show thisCore.ecntWidth ≤ Config.ecntWidth from Nat.le_refl _)]
  show min (c.toNat + 1) (2 ^ 16 - 1) = _
  have hc : c.toNat < 65536 := c.isLt
  split
  · rename_i h; rw [h]; rfl
  · rename_i h
    have h' : c.toNat ≠ 65535 := fun he => h (BitVec.eq_of_toNat_eq he)
    rw [BitVec.toNat_add]
    show _ = (c.toNat + 1) % 65536
    omega

/-! ### Writers, streams, events, resets -/

theorem respond_eq (v : Word) : respond v s = { s with rdata := v } := rfl

theorem emitTx_eq (b : List Byte) : emitTx b s = { s with tx := s.tx ++ b } := rfl

theorem publish_eq (p : List Byte) : publish p s = { s with rx := s.rx ++ [p] } := rfl

/-- An event sets its sticky bit and nothing else (R501). -/
theorem raise_eq (e : Event) : raise e s = { s with sticky := s.sticky.record e } := rfl

@[simp] theorem raise_syncNotFound : raise .syncNotFound s = s := rfl

/-- An illegal command changes STATUS.CMD_ERR and the response, nothing else (R144). -/
theorem illegalCommand_eq :
    illegalCommand s = { s with sticky := { s.sticky with cmdErr := true }, rdata := 0#32 } := rfl

theorem dataCommand_of_run (f : State → State) (h : s.run = true) : dataCommand f s = f s := by
  simp [dataCommand, h]

theorem dataCommand_of_stopped (f : State → State) (h : s.run = false) :
    dataCommand f s = illegalCommand s := by simp [dataCommand, h]

theorem enterSyncSearch_eq : enterSyncSearch s = { s with dec := s.dec.enterSyncSearch } := rfl

theorem datapathInit_eq :
    datapathInit s = { s with dec := s.dec.enterSyncSearch, enc := s.enc.init } := rfl

theorem counterClear_eq : counterClear s = { s with counters := Counters.reset } := rfl

theorem resultClear_eq : resultClear s = { s with last := LastResult.reset } := rfl

theorem hardwareReset_eq (P : Params) :
    hardwareReset P s = { State.resetWith P.syncReset with rx := s.rx, tx := s.tx, port := s.port } := rfl

end Machine

end Sys2Proof
end

