-- ==== Sys2Proof/Laws/Encoder.lean ====
section
/-! SUPPORT. The encoder: the bytes and the length of an encoded codeword and of a frame
(spec/41_frame_assembler.md R256 to R262), and what the encoder's commands leave alone. -/

namespace Sys2Proof

namespace Machine

variable (P : Params) (e : RsEngine) (s : State)

/-- A legal depth (R58, R60). -/
theorem legalDepth_iff {d : BitVec 4} : legalDepth P d = true ↔ 1 ≤ d.toNat ∧ d.toNat ≤ P.pMaxI := by
  simp [legalDepth]

/-- A legal depth is at most 8, whatever the parameter (R8). -/
theorem le_eight_of_legalDepth {d : BitVec 4} (h : legalDepth P d = true) : d.toNat ≤ 8 :=
  Nat.le_trans ((legalDepth_iff P).mp h).2 P.pMaxI_legal.2

/-- A codeword of a legal depth fits the codeword buffer (R115). -/
theorem cwLen_le {d : BitVec 4} (h : d.toNat ≤ 8) : d.toNat * 255 ≤ 2040 := by omega

/-- A payload of a legal depth fits the payload buffers (R115). -/
theorem pLen_le {d : BitVec 4} (h : d.toNat ≤ 8) : d.toNat * 223 ≤ 1784 := by omega

/-! ### One encoded block (R257, R258, R362) -/

theorem bufRead_encodedBlock (rsEn dual : Bool) (data : Data223) {j : Nat} (hj : j < 255) :
    bufRead (encodedBlock e rsEn dual data) j =
      if j < 223 then bufRead data j else bufRead (rsParityCall e rsEn dual data) (j - 223) := by
  rw [bufRead_of_lt _ hj]
  have : (encodedBlock e rsEn dual data)[j] =
      (data ++ rsParityCall e rsEn dual data)[j]'(by omega) := rfl
  rw [this, Vector.getElem_append]
  by_cases h : j < 223
  · simp only [h, dif_pos, if_true]; rw [bufRead_of_lt _ h]
  · simp only [h, dif_neg, not_false_iff, if_false]; rw [bufRead_of_lt _ (show j - 223 < 32 by omega)]

theorem bufRead_payloadBlock (p : List Byte) (i : Nat) {j : Nat} (hj : j < 223) :
    bufRead (payloadBlock s p i) j = p.getD (pos (encLayout s) (encDepth s) 223 i j) 0#8 :=
  bufRead_ofFn _ hj

/-! ### The codeword (R256, R259) -/

theorem assembledCodeword_eq (p : List Byte) :
    assembledCodeword e s p =
      insertBlocks (encLayout s) (encDepth s) 255 (payloadEncodedBlock e s p) (encDepth s)
        (Vector.replicate Config.cwSize 0#8) := rfl

/-- Every codeword byte is the byte of its sub-block, before scrambling (R257). -/
theorem bufRead_assembledCodeword (p : List Byte) (hd : s.encCfg.depth.toNat ≤ 8) {i j : Nat}
    (hi : i < encDepth s) (hj : j < 255) :
    bufRead (assembledCodeword e s p) (pos (encLayout s) (encDepth s) 255 i j) =
      bufRead (payloadEncodedBlock e s p i) j := by
  rw [assembledCodeword_eq]
  exact bufRead_insertBlocks_pos _ _ _ _ (Nat.le_refl _) hi hj (cwLen_le hd)

theorem length_encodedCodeword (p : List Byte) (hd : s.encCfg.depth.toNat ≤ 8) :
    (encodedCodeword P s p).length = encDepth s * 255 := by
  unfold encodedCodeword
  exact length_take_toList _ (cwLen_le hd)

/-- The codeword bytes as emitted (R259). -/
theorem getElem?_encodedCodeword (p : List Byte) (hd : s.encCfg.depth.toNat ≤ 8) {k : Nat}
    (hk : k < encDepth s * 255) :
    (encodedCodeword P s p)[k]? =
      some (if s.encCfg.scrEn then bufRead (assembledCodeword P.engine s p) k ^^^ coverAt P.cover k
        else bufRead (assembledCodeword P.engine s p) k) := by
  unfold encodedCodeword
  have hL : encCwLen s ≤ Config.cwSize := cwLen_le hd
  rw [getElem?_take_toList _ (show k < encCwLen s from hk) hL]
  congr 1
  cases s.encCfg.scrEn
  · rfl
  · simp only [if_true]
    rw [bufRead_scramble _ _ _ (Nat.lt_of_lt_of_le hk hL), if_pos (show k < encCwLen s from hk)]

/-! ### The frame (R261, R262) -/

theorem length_assemble (tail started : Bool) (m cw : List Byte) :
    (assemble tail started m cw).length =
      m.length + cw.length + (if tail && !started then m.length else 0) := by
  cases tail <;> cases started <;> simp [assemble] <;> omega

theorem length_frameOf (p : List Byte) (hd : s.encCfg.depth.toNat ≤ 8) :
    (frameOf P s p).length =
      4 + encDepth s * 255 + (if s.encCfg.tail && !s.enc.started then 4 else 0) := by
  rw [frameOf, length_assemble, length_encodedCodeword P s p hd]; rfl

/-- The codeword depends on the configuration alone. -/
theorem encodedCodeword_congr {s t : State} (h : s.encCfg = t.encCfg) (p : List Byte) :
    encodedCodeword P s p = encodedCodeword P t p := by
  simp only [encodedCodeword, assembledCodeword, payloadEncodedBlock, payloadBlock, encCwLen, encDepth,
    encLayout, h]

/-- The frame depends on the configuration, the marker and `started` alone. -/
theorem frameOf_congr {s t : State} (h : s.encCfg = t.encCfg) (hs : s.syncWord = t.syncWord)
    (hst : s.enc.started = t.enc.started) (p : List Byte) : frameOf P s p = frameOf P t p := by
  rw [frameOf, frameOf, encodedCodeword_congr P h, h, hs, hst]

/-- Everything the assembly of a frame does (R256). -/
theorem encodeFrame_eq (p : List Byte) :
    encodeFrame P p s =
      { s with
        tx := s.tx ++ frameOf P s p
        counters := { s.counters with framesTransmitted := inc P.cntWidth s.counters.framesTransmitted }
        enc := { s.enc with started := true } } := rfl

theorem length_stagedPayload (hd : s.encCfg.depth.toNat ≤ 8) :
    (stagedPayload s).length = encDepth s * 223 := length_take_toList _ (pLen_le hd)

/-! ### The frame of the encoder's commands -/

/-- What no encoder command touches: RUN, the configuration, the decoder and its results, the RX stream, the
host's inputs (R618), and the sticky bits UNCORR and CFG_ERR. -/
structure EncoderFrame (s t : State) : Prop where
  run : t.run = s.run
  decCfg : t.decCfg = s.decCfg
  encCfg : t.encCfg = s.encCfg
  syncWord : t.syncWord = s.syncWord
  dec : t.dec = s.dec
  last : t.last = s.last
  rx : t.rx = s.rx
  port : t.port = s.port
  framesReceived : t.counters.framesReceived = s.counters.framesReceived
  framesDecoded : t.counters.framesDecoded = s.counters.framesDecoded
  subframesDecoded : t.counters.subframesDecoded = s.counters.subframesDecoded
  fillFramesDecoded : t.counters.fillFramesDecoded = s.counters.fillFramesDecoded
  uncorr : t.sticky.uncorr = s.sticky.uncorr
  cfgErr : t.sticky.cfgErr = s.sticky.cfgErr

theorem illegalCommand_frame : EncoderFrame s (illegalCommand s) :=
  ⟨rfl, rfl, rfl, rfl, rfl, rfl, rfl, rfl, rfl, rfl, rfl, rfl, rfl, rfl⟩

theorem streamByte_of_ne (b : Byte) (h : (s.enc.store P b).ecount.toNat ≠ encPLen s) :
    streamByte P b s = s.withEnc (s.enc.store P b) := if_neg h

/-- The byte that completes a payload unit: the frame is emitted and the unit starts again (R251). -/
theorem streamByte_of_eq (b : Byte) (h : (s.enc.store P b).ecount.toNat = encPLen s) :
    streamByte P b s =
      { s with
        tx := s.tx ++ frameOf P s (stagedPayload (s.withEnc (s.enc.store P b)))
        counters := { s.counters with framesTransmitted := inc P.cntWidth s.counters.framesTransmitted }
        enc := { s.enc.store P b with ecount := 0#16, started := true } } := by
  have hp : streamByte P b s =
      (encodeFrame P (stagedPayload (s.withEnc (s.enc.store P b))) (s.withEnc (s.enc.store P b))).withEnc
        { s.enc.store P b with ecount := 0#16, started := true } := if_pos h
  rw [hp, encodeFrame_eq, frameOf_congr P (s := s.withEnc (s.enc.store P b)) (t := s) rfl rfl rfl]
  rfl

theorem messageByte_cases (b : Byte) (s : State) :
    (s.enc.pending = true ∧ messageByte P b s = raise .illegalCommand s) ∨
    (s.enc.pending = false ∧
      messageByte P b s = s.withEnc
        { s.enc with
          ebuf := if s.enc.ecount.toNat < encPLen s then bufWrite s.enc.ebuf s.enc.ecount.toNat b
            else s.enc.ebuf
          ecount := sat P.ecntWidth s.enc.ecount }) := by
  cases h : s.enc.pending
  · exact .inr ⟨rfl, if_neg (by simp [h])⟩
  · exact .inl ⟨rfl, if_pos h⟩

/-- The five things EINVOKE can find, and what it does (R255). -/
theorem invokeEffect_cases :
    (s.encCfg.msgMode = false ∧ invokeEffect P s = respond 0#32 (raise .illegalCommand s)) ∨
    (s.encCfg.msgMode = true ∧ s.enc.pending = false ∧ s.encCfg.idleEn = true ∧
      invokeEffect P s = respond 0#32 (encodeFrame P (zeros (encPLen s)) s)) ∨
    (s.encCfg.msgMode = true ∧ s.enc.pending = false ∧ s.encCfg.idleEn = false ∧
      invokeEffect P s = respond 0#32 (raise .malformedInputMessage s)) ∨
    (s.encCfg.msgMode = true ∧ s.enc.pending = true ∧ s.enc.ecount.toNat ≠ encPLen s ∧
      invokeEffect P s = respond 0#32 (clearPending (raise .lengthMismatch s))) ∨
    (s.encCfg.msgMode = true ∧ s.enc.pending = true ∧ s.enc.ecount.toNat = encPLen s ∧
      invokeEffect P s = respond 0#32 (clearPending (encodeFrame P (stagedPayload s) s))) := by
  unfold invokeEffect
  cases hm : s.encCfg.msgMode
  · exact .inl ⟨rfl, rfl⟩
  · cases hp : s.enc.pending
    · cases hi : s.encCfg.idleEn
      · exact .inr (.inr (.inl ⟨rfl, rfl, rfl, rfl⟩))
      · exact .inr (.inl ⟨rfl, rfl, rfl, rfl⟩)
    · by_cases hl : s.enc.ecount.toNat = encPLen s
      · exact .inr (.inr (.inr (.inr ⟨rfl, rfl, hl, by simp [hl]⟩)))
      · exact .inr (.inr (.inr (.inl ⟨rfl, rfl, hl, by simp [hl]⟩)))

theorem byteEffect_frame (b : Byte) : EncoderFrame s (byteEffect P b s) := by
  unfold byteEffect
  cases s.encCfg.msgMode
  · simp only [Bool.false_eq_true, if_false]
    by_cases h : (s.enc.store P b).ecount.toNat = encPLen s
    · rw [streamByte_of_eq P s b h]; exact ⟨rfl, rfl, rfl, rfl, rfl, rfl, rfl, rfl, rfl, rfl, rfl, rfl, rfl, rfl⟩
    · rw [streamByte_of_ne P s b h]; exact ⟨rfl, rfl, rfl, rfl, rfl, rfl, rfl, rfl, rfl, rfl, rfl, rfl, rfl, rfl⟩
  · simp only [if_true]
    rcases messageByte_cases P b s with h | h <;> rw [h.2] <;>
      exact ⟨rfl, rfl, rfl, rfl, rfl, rfl, rfl, rfl, rfl, rfl, rfl, rfl, rfl, rfl⟩

theorem queueEffect_frame : EncoderFrame s (queueEffect s) := by
  unfold queueEffect
  split <;> exact ⟨rfl, rfl, rfl, rfl, rfl, rfl, rfl, rfl, rfl, rfl, rfl, rfl, rfl, rfl⟩

theorem encodeFrame_frame (p : List Byte) : EncoderFrame s (encodeFrame P p s) := by
  rw [encodeFrame_eq]
  exact ⟨rfl, rfl, rfl, rfl, rfl, rfl, rfl, rfl, rfl, rfl, rfl, rfl, rfl, rfl⟩

theorem clearPending_frame {t : State} (h : EncoderFrame s t) :
    EncoderFrame s (respond 0#32 (clearPending t)) :=
  ⟨h.run, h.decCfg, h.encCfg, h.syncWord, h.dec, h.last, h.rx, h.port, h.framesReceived,
    h.framesDecoded, h.subframesDecoded, h.fillFramesDecoded, h.uncorr, h.cfgErr⟩

theorem respond_frame {t : State} (h : EncoderFrame s t) (v : Word) : EncoderFrame s (respond v t) :=
  ⟨h.run, h.decCfg, h.encCfg, h.syncWord, h.dec, h.last, h.rx, h.port, h.framesReceived,
    h.framesDecoded, h.subframesDecoded, h.fillFramesDecoded, h.uncorr, h.cfgErr⟩

theorem invokeEffect_frame : EncoderFrame s (invokeEffect P s) := by
  rcases invokeEffect_cases P s with h | h | h | h | h
  · rw [h.2]; exact ⟨rfl, rfl, rfl, rfl, rfl, rfl, rfl, rfl, rfl, rfl, rfl, rfl, rfl, rfl⟩
  · rw [h.2.2.2]; exact respond_frame s (encodeFrame_frame P s _) _
  · rw [h.2.2.2]; exact ⟨rfl, rfl, rfl, rfl, rfl, rfl, rfl, rfl, rfl, rfl, rfl, rfl, rfl, rfl⟩
  · rw [h.2.2.2]; exact clearPending_frame s
      ⟨rfl, rfl, rfl, rfl, rfl, rfl, rfl, rfl, rfl, rfl, rfl, rfl, rfl, rfl⟩
  · rw [h.2.2.2]; exact clearPending_frame s (encodeFrame_frame P s _)

end Machine

end Sys2Proof
end

