-- ==== Sys2Proof/Laws/Control.lean ====
section
/-! SUPPORT. The control and status registers: which register an address is, the fields of the words read
(spec/10_state.md R57 to R70), and everything a register write can do (R57 to R72). -/

namespace Sys2Proof

namespace Machine

variable (P : Params) (s : State)

/-! ### Addresses (R56, R71) -/

theorem csrAt_reserved {a : BitVec 8} (h : 0x0F ≤ a.toNat) : csrAt a = none := by
  revert a; decide +kernel

/-- A read-only register ignores writes (R72). -/
theorem csrWrite_readOnly {a : BitVec 8} (h : 0x05 ≤ a.toNat) (h' : a.toNat ≤ 0x0E) (v : Word) :
    csrWrite P a v s = s := by
  have key : ∀ a : BitVec 8, 0x05 ≤ a.toNat → a.toNat ≤ 0x0E →
      csrAt a ∈ [some Csr.decPos, some .shiftReg, some .lastCorr, some .framesRx, some .framesDec,
        some .subframesDec, some .fillDec, some .framesTx, some .encCount, some .params] := by decide +kernel
  have := key a h h'
  simp only [List.mem_cons, List.not_mem_nil, or_false] at this
  rcases this with h | h | h | h | h | h | h | h | h | h <;> simp only [csrWrite, h] <;> rfl

theorem csrRead_reserved {a : BitVec 8} (h : 0x0F ≤ a.toNat) : csrRead P a s = 0#32 := by
  rw [csrRead, csrAt_reserved h]

theorem csrWrite_reserved {a : BitVec 8} (h : 0x0F ≤ a.toNat) (v : Word) : csrWrite P a v s = s := by
  rw [csrWrite, csrAt_reserved h]

/-! ### Words read -/

theorem ctrlWord_eq : ctrlWord s = if s.run then 1#32 else 0#32 := by
  unfold ctrlWord; cases s.run <;> rfl

/-- The bits of STATUS (R63). -/
theorem statusWord_bits :
    (statusWord s).getLsbD 0 = s.dec.dstate.bit ∧ (statusWord s).getLsbD 1 = s.enc.started ∧
    (statusWord s).getLsbD 2 = s.enc.pending ∧ (statusWord s).getLsbD 3 = s.last.ok ∧
    (statusWord s).getLsbD 4 = s.last.fillFast ∧ (statusWord s).getLsbD 5 = s.last.fillExh ∧
    (statusWord s).getLsbD 6 = s.last.valid ∧ (statusWord s).getLsbD 7 = false ∧
    (statusWord s).getLsbD 8 = s.sticky.uncorr ∧ (statusWord s).getLsbD 9 = s.sticky.msgErr ∧
    (statusWord s).getLsbD 10 = s.sticky.lenErr ∧ (statusWord s).getLsbD 11 = s.sticky.cmdErr ∧
    (statusWord s).getLsbD 12 = s.sticky.cfgErr := by
  unfold statusWord
  refine ⟨?_, ?_, ?_, ?_, ?_, ?_, ?_, ?_, ?_, ?_, ?_, ?_, ?_⟩ <;>
    (simp only [BitVec.getLsbD_append]; simp)

/-- The fields of STATUS above the bits (R63). -/
theorem statusWord_fields :
    (statusWord s).extractLsb' 13 3 = 0#3 ∧ (statusWord s).extractLsb' 16 8 = s.last.failMask ∧
    (statusWord s).extractLsb' 24 8 = 0#8 := by
  unfold statusWord
  refine ⟨?_, ?_, ?_⟩ <;>
    (apply BitVec.eq_of_getLsbD_eq; intro k hk
     simp only [BitVec.getLsbD_extractLsb', BitVec.getLsbD_append]
     interval_cases k <;> simp)

/-- The fields of DEC_POS (R65). -/
theorem decPosWord_fields :
    (decPosWord s).extractLsb' 0 3 = s.dec.bitcnt ∧ (decPosWord s).extractLsb' 3 13 = 0#13 ∧
    (decPosWord s).extractLsb' 16 11 = s.dec.bytecnt ∧ (decPosWord s).extractLsb' 27 5 = 0#5 := by
  unfold decPosWord
  refine ⟨?_, ?_, ?_, ?_⟩ <;>
    (apply BitVec.eq_of_getLsbD_eq; intro k hk
     simp only [BitVec.getLsbD_extractLsb', BitVec.getLsbD_append]
     interval_cases k <;> simp)

/-- DEC_CFG reads back what was written, reserved bits 0 (R59, R73). -/
theorem DecCfg.word_ofWord (w : Word) : (DecCfg.ofWord w).word = w &&& 0x0000F3FF#32 := by
  unfold DecCfg.word DecCfg.ofWord
  apply BitVec.eq_of_getLsbD_eq; intro k hk
  simp only [BitVec.getLsbD_and, BitVec.getLsbD_append, BitVec.getLsbD_extractLsb']
  interval_cases k <;> simp

/-- ENC_CFG reads back what was written, reserved bits 0 (R61, R73). -/
theorem EncCfg.word_ofWord (w : Word) : (EncCfg.ofWord w).word = w &&& 0xFFFFF07F#32 := by
  unfold EncCfg.word EncCfg.ofWord
  apply BitVec.eq_of_getLsbD_eq; intro k hk
  simp only [BitVec.getLsbD_and, BitVec.getLsbD_append, BitVec.getLsbD_extractLsb']
  interval_cases k <;> simp

/-- No read depends on the response or on the host's pending inputs (R103). -/
theorem csrRead_withRdata (a : BitVec 8) (v : Word) : csrRead P a (s.withRdata v) = csrRead P a s := rfl

/-! ### Writes -/

/-- Everything a register write can do: the rising edge of RUN, a store of RUN, a store of one of the three
configuration registers, a rejection, a clearing of sticky bits, or nothing (R57 to R72). -/
theorem csrWrite_cases (a : BitVec 8) (v : Word) :
    (a = 0x00#8 ∧ s.run = false ∧ v.getLsbD 0 = true ∧ csrWrite P a v s = (datapathInit s).withRun true) ∨
    (a = 0x00#8 ∧ (s.run = true ∨ v.getLsbD 0 = false) ∧ csrWrite P a v s = s.withRun (v.getLsbD 0)) ∨
    (a = 0x01#8 ∧ s.run = false ∧ legalDepth P (v.extractLsb' 12 4) = true ∧
      csrWrite P a v s = s.withDecCfg (DecCfg.ofWord v)) ∨
    (a = 0x02#8 ∧ s.run = false ∧ legalDepth P (v.extractLsb' 12 4) = true ∧
      csrWrite P a v s = s.withEncCfg (EncCfg.ofWord v)) ∨
    (a = 0x03#8 ∧ s.run = false ∧ csrWrite P a v s = s.withSyncWord v) ∨
    (((s.run = true ∧ 1 ≤ a.toNat ∧ a.toNat ≤ 3) ∨
        (1 ≤ a.toNat ∧ a.toNat ≤ 2 ∧ legalDepth P (v.extractLsb' 12 4) = false)) ∧
      csrWrite P a v s = raise .configRejected s) ∨
    (a = 0x04#8 ∧ csrWrite P a v s = s.withSticky (s.sticky.clear v)) ∨
    (0x05 ≤ a.toNat ∧ csrWrite P a v s = s) := by
  have key : ∀ a : BitVec 8, a = 0#8 ∨ a = 1#8 ∨ a = 2#8 ∨ a = 3#8 ∨ a = 4#8 ∨ 5 ≤ a.toNat := by
    decide +kernel
  rcases key a with rfl | rfl | rfl | rfl | rfl | h
  · have e : csrWrite P 0#8 v s = writeCtrl v s := rfl
    rw [e, writeCtrl]
    cases hr : s.run <;> cases hv : v.getLsbD 0
    · exact .inr (.inl ⟨rfl, .inr rfl, rfl⟩)
    · exact .inl ⟨rfl, rfl, rfl, rfl⟩
    · exact .inr (.inl ⟨rfl, .inl rfl, rfl⟩)
    · exact .inr (.inl ⟨rfl, .inl rfl, rfl⟩)
  · have e : csrWrite P 1#8 v s = writeDecCfg P v s := rfl
    rw [e, writeDecCfg]
    cases hr : s.run <;> cases hl : legalDepth P (v.extractLsb' 12 4)
    · exact .inr (.inr (.inr (.inr (.inr (.inl ⟨.inr ⟨by decide, by decide, rfl⟩, rfl⟩)))))
    · exact .inr (.inr (.inl ⟨rfl, rfl, rfl, rfl⟩))
    · exact .inr (.inr (.inr (.inr (.inr (.inl ⟨.inl ⟨rfl, by decide, by decide⟩, rfl⟩)))))
    · exact .inr (.inr (.inr (.inr (.inr (.inl ⟨.inl ⟨rfl, by decide, by decide⟩, rfl⟩)))))
  · have e : csrWrite P 2#8 v s = writeEncCfg P v s := rfl
    rw [e, writeEncCfg]
    cases hr : s.run <;> cases hl : legalDepth P (v.extractLsb' 12 4)
    · exact .inr (.inr (.inr (.inr (.inr (.inl ⟨.inr ⟨by decide, by decide, rfl⟩, rfl⟩)))))
    · exact .inr (.inr (.inr (.inl ⟨rfl, rfl, rfl, rfl⟩)))
    · exact .inr (.inr (.inr (.inr (.inr (.inl ⟨.inl ⟨rfl, by decide, by decide⟩, rfl⟩)))))
    · exact .inr (.inr (.inr (.inr (.inr (.inl ⟨.inl ⟨rfl, by decide, by decide⟩, rfl⟩)))))
  · have e : csrWrite P 3#8 v s = writeSyncWord v s := rfl
    rw [e, writeSyncWord]
    cases hr : s.run
    · exact .inr (.inr (.inr (.inr (.inl ⟨rfl, rfl, rfl⟩))))
    · exact .inr (.inr (.inr (.inr (.inr (.inl ⟨.inl ⟨rfl, by decide, by decide⟩, rfl⟩)))))
  · exact .inr (.inr (.inr (.inr (.inr (.inr (.inl ⟨rfl, rfl⟩))))))
  · refine .inr (.inr (.inr (.inr (.inr (.inr (.inr ⟨h, ?_⟩))))))
    by_cases h' : a.toNat ≤ 0x0E
    · exact csrWrite_readOnly P s h h' v
    · exact csrWrite_reserved P s (by omega) v

end Machine

end Sys2Proof
end

