-- ==== Sys2Proof/Laws/Flags.lean ====
section
/-! SUPPORT. The marker comparison and the fill detectors (spec/40_bit_synchronizer.md R204,
spec/44_fill_detector.md R340, R341). -/

namespace Sys2Proof

namespace Machine

theorem popcount_le (v : Word) : popcount v ≤ 32 := by
  have := List.countP_le_length (p := fun i => v.getLsbD i) (l := List.range 32)
  simpa [popcount] using this

theorem markerFound_iff (sr sync : Word) (t : BitVec 6) :
    markerFound sr sync t = true ↔ popcount (sr ^^^ sync) ≤ t.toNat := decide_eq_true_iff

theorem fillFast_iff (pl : Vector Byte Config.plSize) :
    fillFast pl = true ↔ bufRead pl 0 = 0#8 ∧ bufRead pl 1 = 0#8 := by simp [fillFast]

/-- An exact sum of unsigned bytes is 0 iff every byte is (R341). -/
theorem payloadSum_eq_zero_iff (pl : Vector Byte Config.plSize) (p : Nat) :
    payloadSum pl p = 0 ↔ ∀ k < p, bufRead pl k = 0#8 := by
  unfold payloadSum
  induction p with
  | zero => simp
  | succ p ih =>
    rw [List.range_succ, List.map_append, List.sum_append]
    simp only [List.map_cons, List.map_nil, List.sum_cons, List.sum_nil, Nat.add_zero, Nat.add_eq_zero_iff, ih]
    constructor
    · rintro ⟨h, hp⟩ k hk
      rcases Nat.lt_succ_iff_lt_or_eq.mp hk with h' | rfl
      · exact h k h'
      · exact BitVec.eq_of_toNat_eq hp
    · intro h
      exact ⟨fun k hk => h k (by omega), by rw [h p (by omega)]; rfl⟩

theorem fillExhaustive_iff (pl : Vector Byte Config.plSize) (p : Nat) :
    fillExhaustive pl p = true ↔ ∀ k < p, bufRead pl k = 0#8 :=
  decide_eq_true_iff.trans (payloadSum_eq_zero_iff pl p)

theorem fillFast_congr {x y : Vector Byte Config.plSize} (h0 : bufRead x 0 = bufRead y 0)
    (h1 : bufRead x 1 = bufRead y 1) : fillFast x = fillFast y := by simp [fillFast, h0, h1]

theorem fillExhaustive_congr {x y : Vector Byte Config.plSize} {p : Nat}
    (h : ∀ k < p, bufRead x k = bufRead y k) : fillExhaustive x p = fillExhaustive y p := by
  rw [Bool.eq_iff_iff, fillExhaustive_iff, fillExhaustive_iff]
  exact forall₂_congr fun k hk => by rw [h k hk]

end Machine

end Sys2Proof
end

