-- ==== Sys2Proof/Laws/Decoder.lean ====
section
/-! SUPPORT. The decoder: one decode attempt in closed form (spec/40_bit_synchronizer.md R215 to R224), what
the per-bit step can do (R203), and what it leaves alone. -/

namespace Sys2Proof

namespace Machine

variable (P : Params) (s : State)

/-! ### The loop over the sub-blocks -/

/-- The attempt after the sub-blocks `0, …, c - 1`. -/
def attemptUpTo (cw : Vector Byte Config.cwSize) (c : Nat) : Attempt :=
  (List.range c).foldl (processBlock P s cw)
    { ok := true, failMask := 0#8, corr := 0#32, subframes := s.counters.subframesDecoded, pl := s.dec.pl }

theorem runAttempt_eq (cw : Vector Byte Config.cwSize) :
    runAttempt P s cw = attemptUpTo P s cw (decDepth s) := rfl

theorem attemptUpTo_succ (cw : Vector Byte Config.cwSize) (c : Nat) :
    attemptUpTo P s cw (c + 1) = processBlock P s cw (attemptUpTo P s cw c) c := by
  simp [attemptUpTo, List.range_succ]

variable (cw : Vector Byte Config.cwSize)

/-- Overall success is the AND of the sub-blocks' outcomes (R220). -/
theorem attemptUpTo_ok (c : Nat) :
    (attemptUpTo P s cw c).ok = true ↔ ∀ i < c, (subBlockOutcome P.engine s cw i).ok = true := by
  induction c with
  | zero => simp [attemptUpTo]
  | succ c ih =>
    rw [attemptUpTo_succ]
    simp only [processBlock, Bool.and_eq_true, ih]
    constructor
    · rintro ⟨h, hc⟩ i hi
      rcases Nat.lt_succ_iff_lt_or_eq.mp hi with h' | rfl
      · exact h i h'
      · exact hc
    · intro h
      exact ⟨fun i hi => h i (by omega), h c (by omega)⟩

/-- Bit `k` of the mask is 1 iff sub-block `k` was processed and failed (R223). -/
theorem attemptUpTo_failMask (c : Nat) {k : Nat} (hk : k < 8) :
    (attemptUpTo P s cw c).failMask.getLsbD k = true ↔ k < c ∧ (subBlockOutcome P.engine s cw k).ok = false := by
  induction c with
  | zero => simp [attemptUpTo]
  | succ c ih =>
    rw [attemptUpTo_succ]
    simp only [processBlock]
    by_cases hc : (subBlockOutcome P.engine s cw c).ok = true
    · simp only [hc, if_true, ih]
      constructor
      · rintro ⟨h, h'⟩; exact ⟨by omega, h'⟩
      · rintro ⟨h, h'⟩
        refine ⟨?_, h'⟩
        rcases Nat.lt_succ_iff_lt_or_eq.mp h with h'' | rfl
        · exact h''
        · simp [hc] at h'
    · simp only [hc, Bool.false_eq_true, if_false]
      have hbit : (1#8 <<< c).getLsbD k = decide (k = c) := by
        simp only [BitVec.getLsbD_shiftLeft, BitVec.getLsbD_one]
        by_cases h : k = c
        · subst h; simp [hk]
        · by_cases h' : k < c
          · simp [h, h']
          · simp [h, h', show k - c ≠ 0 by omega]
      rw [BitVec.getLsbD_or, hbit, Bool.or_eq_true, ih]
      constructor
      · rintro (⟨h, h'⟩ | h)
        · exact ⟨by omega, h'⟩
        · have : k = c := by simpa using h
          subst this; exact ⟨by omega, by simpa using hc⟩
      · rintro ⟨h, h'⟩
        rcases Nat.lt_succ_iff_lt_or_eq.mp h with h'' | h''
        · exact .inl ⟨h'', h'⟩
        · exact .inr (by simp [h''])

/-- The corrected-error counts are summed modulo 2^32 (R223, R368). -/
theorem attemptUpTo_corr (c : Nat) :
    (attemptUpTo P s cw c).corr =
      BitVec.ofNat 32 ((List.range c).map fun i => (subBlockOutcome P.engine s cw i).count).sum := by
  induction c with
  | zero => rfl
  | succ c ih =>
    rw [attemptUpTo_succ, List.range_succ]
    simp [processBlock, ih, BitVec.ofNat_add]

/-- How many sub-blocks below `c` the engine reports as decoded. -/
def countedUpTo (c : Nat) : Nat := (List.range c).countP fun i => (subBlockOutcome P.engine s cw i).counted

/-- Each success the engine reports counts one sub-block (R218, R224). -/
theorem attemptUpTo_subframes (c : Nat) :
    (attemptUpTo P s cw c).subframes = (inc P.cntWidth)^[countedUpTo P s cw c] s.counters.subframesDecoded := by
  induction c with
  | zero => rfl
  | succ c ih =>
    rw [attemptUpTo_succ, countedUpTo, List.range_succ, List.countP_append, ← countedUpTo]
    simp only [processBlock, ih]
    cases h : (subBlockOutcome P.engine s cw c).counted
    · simp [h]
    · simp [h, Function.iterate_succ_apply']

/-- The payload buffer after the loop: the data bytes of every processed block in their places (R219). -/
theorem attemptUpTo_pl (c : Nat) :
    (attemptUpTo P s cw c).pl =
      insertBlocks (decLayout s) (decDepth s) Config.rsK (fun i => (subBlockOutcome P.engine s cw i).block) c
        s.dec.pl := by
  induction c with
  | zero => rfl
  | succ c ih => rw [attemptUpTo_succ, insertBlocks_succ, ← ih]; rfl

/-! ### The whole attempt -/

/-- Everything the conclusion of an attempt does (R220, R221, R223). -/
theorem concludeAttempt_eq (a : Attempt) :
    concludeAttempt P cw a s =
      { s with
        dec := { s.dec with cw := cw, pl := a.pl }
        counters := attemptCounters P a (fillFast a.pl) s.counters
        sticky := { s.sticky with uncorr := s.sticky.uncorr || !a.ok }
        rx := if a.ok && !fillFast a.pl then s.rx ++ [a.pl.toList.take (decPLen s)] else s.rx
        last :=
          { valid := true, ok := a.ok, fillFast := fillFast a.pl, fillExh := fillExhaustive a.pl (decPLen s)
            failMask := a.failMask, corr := a.corr } } := by
  cases hok : a.ok <;> cases hf : fillFast a.pl <;>
    simp [concludeAttempt, hok, hf, publish, raise, Sticky.record, State.withDec, State.withCounters,
      State.withSticky, State.withRx, State.withLast, decPLen, decDepth]

/-- Everything a decode attempt does (R215). -/
theorem decodeFrame_eq :
    decodeFrame P s =
      concludeAttempt P (descrambled P.cover s) (runAttempt P s (descrambled P.cover s)) s := rfl

@[simp] theorem decodeFrame_run : (decodeFrame P s).run = s.run := by
  rw [decodeFrame_eq, concludeAttempt_eq]
@[simp] theorem decodeFrame_decCfg : (decodeFrame P s).decCfg = s.decCfg := by
  rw [decodeFrame_eq, concludeAttempt_eq]
@[simp] theorem decodeFrame_encCfg : (decodeFrame P s).encCfg = s.encCfg := by
  rw [decodeFrame_eq, concludeAttempt_eq]
@[simp] theorem decodeFrame_syncWord : (decodeFrame P s).syncWord = s.syncWord := by
  rw [decodeFrame_eq, concludeAttempt_eq]
@[simp] theorem decodeFrame_enc : (decodeFrame P s).enc = s.enc := by
  rw [decodeFrame_eq, concludeAttempt_eq]
@[simp] theorem decodeFrame_tx : (decodeFrame P s).tx = s.tx := by
  rw [decodeFrame_eq, concludeAttempt_eq]
@[simp] theorem decodeFrame_rdata : (decodeFrame P s).rdata = s.rdata := by
  rw [decodeFrame_eq, concludeAttempt_eq]
@[simp] theorem decodeFrame_port : (decodeFrame P s).port = s.port := by
  rw [decodeFrame_eq, concludeAttempt_eq]

/-! ### The per-bit step -/

/-- The state with a bit shifted in, before anything else happens (R203). -/
def shifted (b : Bool) : State := s.withDec { s.dec with sr := shiftIn s.dec.sr b }

theorem bitStep_of_syncSearch (b : Bool) (h : s.dec.dstate = .syncSearch) :
    bitStep P s b = searchBit P (shifted s b) := by
  show (match s.dec.dstate with
    | .syncSearch => searchBit P (shifted s b)
    | .codeword => codewordBit P (shifted s b)) = _
  rw [h]

theorem bitStep_of_codeword (b : Bool) (h : s.dec.dstate = .codeword) :
    bitStep P s b = codewordBit P (shifted s b) := by
  show (match s.dec.dstate with
    | .syncSearch => searchBit P (shifted s b)
    | .codeword => codewordBit P (shifted s b)) = _
  rw [h]

/-- Everything a bit can do (R203): a search that fails, a sync, a bit within a byte, a byte within a
codeword, or the byte that completes the codeword. -/
theorem bitStep_cases (b : Bool) :
    (s.dec.dstate = .syncSearch ∧ markerFound (shiftIn s.dec.sr b) s.syncWord s.decCfg.t = false ∧
      bitStep P s b = shifted s b) ∨
    (s.dec.dstate = .syncSearch ∧ markerFound (shiftIn s.dec.sr b) s.syncWord s.decCfg.t = true ∧
      bitStep P s b = declareSync P (shifted s b)) ∨
    (s.dec.dstate = .codeword ∧ s.dec.bitcnt.toNat + 1 ≠ 8 ∧
      bitStep P s b = (shifted s b).withDec { (shifted s b).dec with bitcnt := s.dec.bitcnt + 1#3 }) ∨
    (s.dec.dstate = .codeword ∧ s.dec.bitcnt.toNat + 1 = 8 ∧ (s.dec.bytecnt + 1#11).toNat ≠ decCwLen s ∧
      bitStep P s b = storeByte (shifted s b)) ∨
    (s.dec.dstate = .codeword ∧ s.dec.bitcnt.toNat + 1 = 8 ∧ (s.dec.bytecnt + 1#11).toNat = decCwLen s ∧
      bitStep P s b = enterSyncSearch (decodeFrame P (storeByte (shifted s b)))) := by
  cases hd : s.dec.dstate with
  | syncSearch =>
    rw [bitStep_of_syncSearch P s b hd]
    cases hm : markerFound (shiftIn s.dec.sr b) s.syncWord s.decCfg.t
    · exact .inl ⟨rfl, rfl, if_neg (by exact ne_true_of_eq_false hm)⟩
    · exact .inr (.inl ⟨rfl, rfl, if_pos hm⟩)
  | codeword =>
    rw [bitStep_of_codeword P s b hd]
    refine .inr (.inr ?_)
    by_cases hb : s.dec.bitcnt.toNat + 1 = 8
    · refine .inr ?_
      by_cases hL : (s.dec.bytecnt + 1#11).toNat = decCwLen s
      · exact .inr ⟨rfl, hb, hL, (if_pos hb).trans (if_pos hL)⟩
      · exact .inl ⟨rfl, hb, hL, (if_pos hb).trans (if_neg hL)⟩
    · exact .inl ⟨rfl, hb, if_neg hb⟩

/-! ### The frame of the decoder's commands -/

/-- What no bit touches: RUN, the configuration, the encoder, the TX stream, the response, the host's inputs
(R618), and every sticky bit but UNCORR. -/
structure DecoderFrame (s t : State) : Prop where
  run : t.run = s.run
  decCfg : t.decCfg = s.decCfg
  encCfg : t.encCfg = s.encCfg
  syncWord : t.syncWord = s.syncWord
  enc : t.enc = s.enc
  tx : t.tx = s.tx
  rdata : t.rdata = s.rdata
  port : t.port = s.port
  framesTransmitted : t.counters.framesTransmitted = s.counters.framesTransmitted
  msgErr : t.sticky.msgErr = s.sticky.msgErr
  lenErr : t.sticky.lenErr = s.sticky.lenErr
  cmdErr : t.sticky.cmdErr = s.sticky.cmdErr
  cfgErr : t.sticky.cfgErr = s.sticky.cfgErr

theorem DecoderFrame.refl : DecoderFrame s s := ⟨rfl, rfl, rfl, rfl, rfl, rfl, rfl, rfl, rfl, rfl, rfl, rfl, rfl⟩

theorem DecoderFrame.trans {s t u : State} (h : DecoderFrame s t) (h' : DecoderFrame t u) :
    DecoderFrame s u :=
  ⟨h'.run.trans h.run, h'.decCfg.trans h.decCfg, h'.encCfg.trans h.encCfg, h'.syncWord.trans h.syncWord,
    h'.enc.trans h.enc, h'.tx.trans h.tx, h'.rdata.trans h.rdata, h'.port.trans h.port,
    h'.framesTransmitted.trans h.framesTransmitted, h'.msgErr.trans h.msgErr,
    h'.lenErr.trans h.lenErr, h'.cmdErr.trans h.cmdErr, h'.cfgErr.trans h.cfgErr⟩

theorem decodeFrame_frame : DecoderFrame s (decodeFrame P s) := by
  rw [decodeFrame_eq, concludeAttempt_eq]
  exact ⟨rfl, rfl, rfl, rfl, rfl, rfl, rfl, rfl, rfl, rfl, rfl, rfl, rfl⟩

theorem bitStep_frame (b : Bool) : DecoderFrame s (bitStep P s b) := by
  rcases bitStep_cases P s b with h | h | h | h | h
  · rw [h.2.2]; exact ⟨rfl, rfl, rfl, rfl, rfl, rfl, rfl, rfl, rfl, rfl, rfl, rfl, rfl⟩
  · rw [h.2.2]; exact ⟨rfl, rfl, rfl, rfl, rfl, rfl, rfl, rfl, rfl, rfl, rfl, rfl, rfl⟩
  · rw [h.2.2]; exact ⟨rfl, rfl, rfl, rfl, rfl, rfl, rfl, rfl, rfl, rfl, rfl, rfl, rfl⟩
  · rw [h.2.2.2]; exact ⟨rfl, rfl, rfl, rfl, rfl, rfl, rfl, rfl, rfl, rfl, rfl, rfl, rfl⟩
  · rw [h.2.2.2]
    exact .trans (.trans (t := storeByte (shifted s b))
      ⟨rfl, rfl, rfl, rfl, rfl, rfl, rfl, rfl, rfl, rfl, rfl, rfl, rfl⟩
      (decodeFrame_frame P _)) ⟨rfl, rfl, rfl, rfl, rfl, rfl, rfl, rfl, rfl, rfl, rfl, rfl, rfl⟩

theorem bitSteps_nil : bitSteps P s [] = s := rfl

theorem bitSteps_cons (b : Bool) (bs : List Bool) :
    bitSteps P s (b :: bs) = bitSteps P (bitStep P s b) bs := rfl

theorem bitSteps_append (bs bs' : List Bool) :
    bitSteps P s (bs ++ bs') = bitSteps P (bitSteps P s bs) bs' := by simp [bitSteps]

theorem bitSteps_frame (bs : List Bool) : DecoderFrame s (bitSteps P s bs) := by
  induction bs generalizing s with
  | nil => exact .refl s
  | cons b bs ih => exact (bitStep_frame P s b).trans (ih _)

/-- An invariant of the bit step is an invariant of any run of bits. -/
theorem bitSteps_induction {Q : State → Prop} (h : ∀ s b, Q s → Q (bitStep P s b)) (bs : List Bool)
    (hs : Q s) : Q (bitSteps P s bs) := by
  induction bs generalizing s with
  | nil => exact hs
  | cons b bs ih => exact ih _ (h s b hs)

end Machine

end Sys2Proof
end

