-- ==== Sys2Proof/Laws/Encoding.lean ====
section
/-! SUPPORT. The decoder and the encoder of command words: when a word is read as a command of a row
(spec/30_encoding.md R137), and what the operand fields of an encoded command read as (R132 to R135). -/

namespace Sys2Proof

theorem Opcode.ofField_eq_some {f : BitVec 4} {op : Opcode} :
    Opcode.ofField f = some op ↔ f = op.matchWord.extractLsb' 28 4 := by
  revert f; cases op <;> decide

/-- The field `OP` lies inside every mask (R137). -/
theorem Opcode.field_of_match {op : Opcode} {cmd : Word} (h : cmd &&& op.maskWord = op.matchWord) :
    cmd.extractLsb' 28 4 = op.matchWord.extractLsb' 28 4 := by
  have hm : op.maskWord.extractLsb' 28 4 = 15#4 := by cases op <;> rfl
  rw [← h, BitVec.extractLsb'_and, hm]
  exact (BitVec.and_allOnes (w := 4)).symm

/-- A word is read as a command of a row iff it matches the row (R137). -/
theorem decode_eq_ok_iff {cmd wdata : Word} {i : Instr} :
    decode cmd wdata = .ok i ↔
      ∃ op : Opcode, cmd &&& op.maskWord = op.matchWord ∧ op.operands cmd wdata = i := by
  constructor
  · intro h
    unfold decode at h
    split at h
    · cases h
    · rename_i op _
      split at h
      · exact ⟨op, ‹_›, by simpa using h⟩
      · cases h
  · rintro ⟨op, hm, rfl⟩
    have hf := Opcode.ofField_eq_some.mpr (Opcode.field_of_match hm)
    simp [decode, hf, hm]

/-- A word matches at most one row (R137). -/
theorem Opcode.match_unique {cmd : Word} {op op' : Opcode} (h : cmd &&& op.maskWord = op.matchWord)
    (h' : cmd &&& op'.maskWord = op'.matchWord) : op = op' := by
  have := (Opcode.field_of_match h).symm.trans (Opcode.field_of_match h')
  revert this; cases op <;> cases op' <;> decide

@[simp] theorem Opcode.operands_opcode (op : Opcode) (cmd wdata : Word) :
    (op.operands cmd wdata).opcode = op := by cases op <;> rfl

/-- Everything the decoder reads is well-formed (R133). -/
theorem Opcode.operands_wellFormed (op : Opcode) (cmd wdata : Word) :
    (op.operands cmd wdata).wellFormed = true := by
  cases op <;> simp only [Opcode.operands, Instr.wellFormed, Bool.and_eq_true, decide_eq_true_eq]
  have := (cmd.extractLsb' 24 4).isLt
  omega

end Sys2Proof
end

