-- ==== Sys2Proof/Laws/Machine.lean ====
section
/-! SUPPORT. The machine as a whole: the state each command and each step answers, and what a step can be. -/

namespace Sys2Proof

namespace Machine

/-- Counting one at a time is counting on (R14, R48). -/
theorem iterate_inc_eq_countOn {W : Nat} (h : W ≤ Config.cntWidth) (n : Nat) (c : BitVec Config.cntWidth) :
    (inc W)^[n] c = countOn W n c := by
  induction n with
  | zero => rfl
  | succ n ih =>
    rw [Function.iterate_succ_apply', ih]
    apply BitVec.eq_of_toNat_eq
    have ht : ∀ k, ((BitVec.ofNat Config.cntWidth (k % 2 ^ W) : BitVec Config.cntWidth)).toNat = k % 2 ^ W := by
      intro k
      refine (BitVec.toNat_ofNat _ _).trans (Nat.mod_eq_of_lt (Nat.lt_of_lt_of_le ?_
        (Nat.pow_le_pow_right (by decide) h)))
      exact Nat.mod_lt _ (Nat.two_pow_pos W)
    rw [toNat_inc h, countOn, countOn, if_neg (Nat.succ_ne_zero n), ht]
    split
    · rename_i hn; rw [hn]
    · rw [ht, Nat.mod_add_mod, Nat.add_assoc]

theorem inc_eq_countOn (W : Nat) (c : BitVec Config.cntWidth) : inc W c = countOn W 1 c := rfl

/-- At this hardware's width counting on is addition. -/
theorem countOn_thisCore (n : Nat) (c : BitVec Config.cntWidth) :
    countOn thisCore.cntWidth n c = c + BitVec.ofNat 32 n := by
  unfold countOn
  split
  · rename_i hn; rw [hn]; exact (BitVec.add_zero c).symm
  · apply BitVec.eq_of_toNat_eq
    show (BitVec.ofNat 32 ((c.toNat + n) % 2 ^ 32)).toNat = _
    simp [BitVec.toNat_add]
    rfl

/-- At this hardware's widths every state fits. -/
theorem fitsWidths_thisCore (s : State) : FitsWidths thisCore s :=
  ⟨s.counters.framesReceived.isLt, s.counters.framesDecoded.isLt, s.counters.subframesDecoded.isLt,
    s.counters.fillFramesDecoded.isLt, s.counters.framesTransmitted.isLt, s.enc.ecount.isLt⟩

theorem exec_eq (i : Instr) (s : State) : exec i s = .next (effectAt thisCore i s) := by cases i <;> rfl

theorem exec_next {i : Instr} {s t : State} (h : exec i s = .next t) : t = effectAt thisCore i s := by
  rw [exec_eq] at h; exact (Host.Outcome.next.inj h).symm

theorem execAll_nil (s : State) : execAll [] s = .next s := rfl

theorem execAll_cons (i : Instr) (is : List Instr) (s : State) :
    execAll (i :: is) s = execAll is (effectAt thisCore i s) := by simp only [execAll, exec_eq]

theorem applyAll_append (P : Params) (is js : List Instr) (s : State) :
    applyAll P (is ++ js) s = applyAll P js (applyAll P is s) := by simp [applyAll]

theorem execAll_eq (is : List Instr) (s : State) : execAll is s = .next (applyAll thisCore is s) := by
  induction is generalizing s with
  | nil => rfl
  | cons i is ih => rw [execAll_cons, ih]; rfl

theorem execAll_append (is js : List Instr) (s : State) :
    execAll (is ++ js) s = execAll js (applyAll thisCore is s) := by
  induction is generalizing s with
  | nil => rfl
  | cons i is ih => rw [List.cons_append, execAll_cons, ih]; rfl

/-! ### One step -/

/-- The machine is the parametric core at this hardware's parameters (R8). -/
theorem step_eq_stepAt : step = stepAt thisCore := by
  have h : exec = fun i s => .next (effectAt thisCore i s) := by funext i s; exact exec_eq i s
  funext s; rw [step, stepAt, h]

theorem core_eq_coreAt : core = coreAt thisCore := by
  unfold core coreAt; rw [step_eq_stepAt]; rfl

/-- The state a transaction gives (R144). -/
def transactTo (cmd wdata : Word) (s : State) : State :=
  match decode cmd wdata with
  | .ok i => effectAt thisCore i s
  | .error _ => illegalCommand s

/-- The state a step gives. -/
def stepTo (s : State) : State :=
  match s.port with
  | [] => s
  | .command cmd wdata :: rest => transactTo cmd wdata (s.withPort rest)
  | .reset :: rest => hardwareReset thisCore (s.withPort rest)

theorem transact_eq (cmd wdata : Word) (s : State) : transact exec cmd wdata s = .next (transactTo cmd wdata s) := by
  unfold transact transactTo
  cases decode cmd wdata with
  | ok i => exact exec_eq i s
  | error _ => rfl

theorem step_eq (s : State) : step s = .next (stepTo s) := by
  unfold step serveNext stepTo
  cases h : s.port with
  | nil => rfl
  | cons x rest => cases x with
    | command cmd wdata => exact transact_eq _ _ _
    | reset => rfl

theorem step_next {s t : State} (h : step s = .next t) : t = stepTo s := by
  rw [step_eq] at h; exact (Host.Outcome.next.inj h).symm

/-- Everything a step can be: the core waits, a command is executed, an illegal word is turned away, or the
reset input is served. -/
theorem stepTo_cases (s : State) :
    (s.port = [] ∧ stepTo s = s) ∨
    (∃ cmd wdata rest i, s.port = .command cmd wdata :: rest ∧ decode cmd wdata = .ok i ∧
      nextCommand s = some i ∧ stepTo s = effectAt thisCore i (s.withPort rest)) ∨
    (∃ cmd wdata rest x, s.port = .command cmd wdata :: rest ∧ decode cmd wdata = .error x ∧
      nextCommand s = none ∧ stepTo s = illegalCommand (s.withPort rest)) ∨
    (∃ rest, s.port = .reset :: rest ∧ nextIsReset s = true ∧ stepTo s = hardwareReset thisCore (s.withPort rest)) := by
  cases h : s.port with
  | nil => exact .inl ⟨rfl, by simp [stepTo, h]⟩
  | cons x rest => cases x with
    | command cmd wdata =>
      cases hd : decode cmd wdata with
      | ok i =>
        exact .inr (.inl ⟨cmd, wdata, rest, i, rfl, hd, by simp [nextCommand, h, hd],
          by simp [stepTo, h, transactTo, hd]⟩)
      | error x =>
        exact .inr (.inr (.inl ⟨cmd, wdata, rest, x, rfl, hd, by simp [nextCommand, h, hd],
          by simp [stepTo, h, transactTo, hd]⟩))
    | reset => exact .inr (.inr (.inr ⟨rest, rfl, by simp [nextIsReset, h], by simp [stepTo, h]⟩))

end Machine

end Sys2Proof
end

