-- ==== Sys2Proof/Laws/PerInstr.lean ====
section
/-! SUPPORT. Statements about every command as syntax, one lemma per constructor. -/

namespace Sys2Proof

namespace Laws

namespace EncodesIntoItsRow

/-- The command word of a command matches the row of spec/30_encoding.md R137 that its mnemonic has, and every
command but CSRW has the operand word 0 (R142). -/
def Statement (i : Instr) : Prop :=
  (encode i).1 &&& i.opcode.maskWord = i.opcode.matchWord ∧ (i.opcode ≠ .csrw → (encode i).2 = 0#32)

theorem nop : Statement .nop := ⟨by decide, fun _ => rfl⟩

theorem dbit (b : Bool) : Statement (.dbit b) := ⟨by cases b <;> decide, fun _ => rfl⟩

theorem dbatch (n : Nat) (d : BitVec 16) : Statement (.dbatch n d) := by
  refine ⟨?_, fun _ => rfl⟩
  simp only [encode, Instr.opcode, Opcode.matchWord, Opcode.maskWord, Instr.fieldBits]
  generalize BitVec.ofNat 4 (n - 1) = m
  apply BitVec.eq_of_getLsbD_eq
  intro k hk
  simp only [BitVec.getLsbD_and, BitVec.getLsbD_or, BitVec.getLsbD_append]
  interval_cases k <;> simp

theorem ebyte (b : Byte) : Statement (.ebyte b) := ⟨by revert b; decide, fun _ => rfl⟩

theorem emsg : Statement .emsg := ⟨by decide, fun _ => rfl⟩

theorem einvoke : Statement .einvoke := ⟨by decide, fun _ => rfl⟩

theorem csrr (a : BitVec 8) : Statement (.csrr a) := ⟨by revert a; decide, fun _ => rfl⟩

theorem csrw (a : BitVec 8) (v : Word) : Statement (.csrw a v) :=
  ⟨by
    show (0x70000000#32 ||| (0#24 ++ a)) &&& 0xFFFFFF00#32 = 0x70000000#32
    revert a; decide, fun h => absurd rfl h⟩

theorem cntclr : Statement .cntclr := ⟨by decide, fun _ => rfl⟩

theorem reinit : Statement .reinit := ⟨by decide, fun _ => rfl⟩

end EncodesIntoItsRow

end Laws

end Sys2Proof
end

