-- ==== Sys2Proof/Machine/Assembler.lean ====
section
/-! DEFINITION. The assembler of the spec (spec/30_encoding.md R142, R143): the text of a command, the
expansion of the pseudo-commands, and the reading of one line of text. Text is a list of characters. -/

namespace Sys2Proof

namespace Machine

/-! ### Names (R56, R142, R143) -/

/-- The register names of R56, which the assembler accepts for an address (R142). -/
def csrName : Csr → List Char
  | .ctrl => ['C', 'T', 'R', 'L']
  | .decCfg => ['D', 'E', 'C', '_', 'C', 'F', 'G']
  | .encCfg => ['E', 'N', 'C', '_', 'C', 'F', 'G']
  | .syncWord => ['S', 'Y', 'N', 'C', '_', 'W', 'O', 'R', 'D']
  | .status => ['S', 'T', 'A', 'T', 'U', 'S']
  | .decPos => ['D', 'E', 'C', '_', 'P', 'O', 'S']
  | .shiftReg => ['S', 'H', 'I', 'F', 'T', '_', 'R', 'E', 'G']
  | .lastCorr => ['L', 'A', 'S', 'T', '_', 'C', 'O', 'R', 'R']
  | .framesRx => ['F', 'R', 'A', 'M', 'E', 'S', '_', 'R', 'X']
  | .framesDec => ['F', 'R', 'A', 'M', 'E', 'S', '_', 'D', 'E', 'C']
  | .subframesDec => ['S', 'U', 'B', 'F', 'R', 'A', 'M', 'E', 'S', '_', 'D', 'E', 'C']
  | .fillDec => ['F', 'I', 'L', 'L', '_', 'D', 'E', 'C']
  | .framesTx => ['F', 'R', 'A', 'M', 'E', 'S', '_', 'T', 'X']
  | .encCount => ['E', 'N', 'C', '_', 'C', 'O', 'U', 'N', 'T']
  | .params => ['P', 'A', 'R', 'A', 'M', 'S']

/-- The address of an assigned register (R56). -/
def csrAddr : Csr → BitVec 8
  | .ctrl => 0x00#8
  | .decCfg => 0x01#8
  | .encCfg => 0x02#8
  | .syncWord => 0x03#8
  | .status => 0x04#8
  | .decPos => 0x05#8
  | .shiftReg => 0x06#8
  | .lastCorr => 0x07#8
  | .framesRx => 0x08#8
  | .framesDec => 0x09#8
  | .subframesDec => 0x0A#8
  | .fillDec => 0x0B#8
  | .framesTx => 0x0C#8
  | .encCount => 0x0D#8
  | .params => 0x0E#8

/-- The assigned registers in address order (R56). -/
def allCsrs : List Csr :=
  [.ctrl, .decCfg, .encCfg, .syncWord, .status, .decPos, .shiftReg, .lastCorr, .framesRx, .framesDec,
    .subframesDec, .fillDec, .framesTx, .encCount, .params]

/-- The mnemonics and pseudo-mnemonics of R142 and R143. -/
inductive Keyword where
  | nop
  | dbit
  | dbatch
  | ebyte
  | emsg
  | einvoke
  | csrr
  | csrw
  | cntclr
  | reinit
  | dbyte
  | dhalf
  | dword
  | dmarker
  | run
  | stop
  | clrerr
deriving DecidableEq, Repr

/-- The lower-case spelling of a mnemonic (R142). -/
def keywordText : Keyword → List Char
  | .nop => ['n', 'o', 'p']
  | .dbit => ['d', 'b', 'i', 't']
  | .dbatch => ['d', 'b', 'a', 't', 'c', 'h']
  | .ebyte => ['e', 'b', 'y', 't', 'e']
  | .emsg => ['e', 'm', 's', 'g']
  | .einvoke => ['e', 'i', 'n', 'v', 'o', 'k', 'e']
  | .csrr => ['c', 's', 'r', 'r']
  | .csrw => ['c', 's', 'r', 'w']
  | .cntclr => ['c', 'n', 't', 'c', 'l', 'r']
  | .reinit => ['r', 'e', 'i', 'n', 'i', 't']
  | .dbyte => ['d', 'b', 'y', 't', 'e']
  | .dhalf => ['d', 'h', 'a', 'l', 'f']
  | .dword => ['d', 'w', 'o', 'r', 'd']
  | .dmarker => ['d', 'm', 'a', 'r', 'k', 'e', 'r']
  | .run => ['r', 'u', 'n']
  | .stop => ['s', 't', 'o', 'p']
  | .clrerr => ['c', 'l', 'r', 'e', 'r', 'r']

/-- All mnemonics (R142, R143). -/
def allKeywords : List Keyword :=
  [.nop, .dbit, .dbatch, .ebyte, .emsg, .einvoke, .csrr, .csrw, .cntclr, .reinit, .dbyte, .dhalf, .dword,
    .dmarker, .run, .stop, .clrerr]

/-! ### Pseudo-commands (R143) -/

/-- The two halves of a word, the high one first: the expansion of `dword` (R143). -/
def feedWord (w : Word) : List Instr := [.dbatch 16 (w.extractLsb' 16 16), .dbatch 16 (w.extractLsb' 0 16)]

/-- The expansion of a pseudo-command; `marker` is the value of SYNC_WORD the program set, by default
0x1ACFFC1D (R143). -/
def expandPseudo (marker : Word) : Pseudo → List Instr
  | .dbyte b => [.dbatch 8 (0#8 ++ b)]
  | .dhalf h => [.dbatch 16 h]
  | .dword w => feedWord w
  | .dmarker => feedWord marker
  | .run => [.csrw (csrAddr .ctrl) 1#32]
  | .stop => [.csrw (csrAddr .ctrl) 0#32]
  | .clrerr => [.csrw (csrAddr .status) 0x1F00#32]

/-! ### The text of a command (R142) -/

/-- A number in decimal. -/
def decimal (n : Nat) : List Char := Nat.toDigits 10 n

/-- The line of assembler text of a command, numbers in decimal (R142). -/
def assemblyText : Instr → List Char
  | .nop => keywordText .nop
  | .dbit b => keywordText .dbit ++ ' ' :: decimal b.toNat
  | .dbatch n d => keywordText .dbatch ++ ' ' :: decimal n ++ ',' :: ' ' :: decimal d.toNat
  | .ebyte b => keywordText .ebyte ++ ' ' :: decimal b.toNat
  | .emsg => keywordText .emsg
  | .einvoke => keywordText .einvoke
  | .csrr a => keywordText .csrr ++ ' ' :: decimal a.toNat
  | .csrw a v => keywordText .csrw ++ ' ' :: decimal a.toNat ++ ',' :: ' ' :: decimal v.toNat
  | .cntclr => keywordText .cntclr
  | .reinit => keywordText .reinit

/-! ### Reading a line (R142; blanks and the case of hexadecimal digits: log 16) -/

/-- The value of a digit. -/
def digitValue (c : Char) : Option Nat :=
  let v := c.toNat
  if 48 ≤ v ∧ v ≤ 57 then some (v - 48)
  else if 97 ≤ v ∧ v ≤ 102 then some (v - 87)
  else if 65 ≤ v ∧ v ≤ 70 then some (v - 55)
  else none

/-- The number of a list of digits in a base, most significant first; `acc` is the value so far. -/
def readDigits (base : Nat) : Nat → List Char → Option Nat
  | acc, [] => some acc
  | acc, c :: cs =>
    match digitValue c with
    | none => none
    | some d => if d < base then readDigits base (acc * base + d) cs else none

/-- A number, decimal or `0x` hexadecimal (R142). -/
def readNumber : List Char → Option Nat
  | [] => none
  | '0' :: 'x' :: c :: cs => readDigits 16 0 (c :: cs)
  | c :: cs => readDigits 10 0 (c :: cs)

/-- A number below a bound. -/
def readBelow (bound : Nat) (t : List Char) : Option Nat :=
  match readNumber t with
  | none => none
  | some v => if v < bound then some v else none

/-- A register address: a number 0 to 255 or a register name (R142). -/
def readCsrAddr (t : List Char) : Option (BitVec 8) :=
  match allCsrs.find? fun r => csrName r == t with
  | some r => some (csrAddr r)
  | none => (readBelow 256 t).map (BitVec.ofNat 8)

/-- The text before a comment (R142). -/
def dropComment (t : List Char) : List Char := t.takeWhile fun c => c != ';'

/-- A blank between the parts of a line (log 16). -/
def isBlank (c : Char) : Bool := c == ' ' || c == '\t'

/-- A text without the blanks at its two ends. -/
def trimBlanks (t : List Char) : List Char := ((t.dropWhile isBlank).reverse.dropWhile isBlank).reverse

/-- The operands of a line: the text after the mnemonic cut at the commas (R142). -/
def readOperands (t : List Char) : List (List Char) :=
  if trimBlanks t = [] then [] else (t.splitOnP fun c => c == ',').map trimBlanks

/-- The commands of a mnemonic and its operands; nothing for a line the assembler refuses (R142, R143). -/
def assembleCommand (marker : Word) (k : Keyword) (ops : List (List Char)) : Option (List Instr) :=
  match k, ops with
  | .nop, [] => some [.nop]
  | .dbit, [b] => (readBelow 2 b).map fun v => [.dbit (v == 1)]
  | .dbatch, [n, d] =>
    match readBelow 17 n, readBelow (2 ^ 16) d with
    | some n, some d => if 1 ≤ n ∧ d < 2 ^ n then some [.dbatch n (BitVec.ofNat 16 d)] else none
    | _, _ => none
  | .ebyte, [b] => (readBelow 256 b).map fun v => [.ebyte (BitVec.ofNat 8 v)]
  | .emsg, [] => some [.emsg]
  | .einvoke, [] => some [.einvoke]
  | .csrr, [a] => (readCsrAddr a).map fun a => [.csrr a]
  | .csrw, [a, v] =>
    match readCsrAddr a, readBelow (2 ^ 32) v with
    | some a, some v => some [.csrw a (BitVec.ofNat 32 v)]
    | _, _ => none
  | .cntclr, [] => some [.cntclr]
  | .reinit, [] => some [.reinit]
  | .dbyte, [b] => (readBelow 256 b).map fun v => expandPseudo marker (.dbyte (BitVec.ofNat 8 v))
  | .dhalf, [h] => (readBelow (2 ^ 16) h).map fun v => expandPseudo marker (.dhalf (BitVec.ofNat 16 v))
  | .dword, [w] => (readBelow (2 ^ 32) w).map fun v => expandPseudo marker (.dword (BitVec.ofNat 32 v))
  | .dmarker, [] => some (expandPseudo marker .dmarker)
  | .run, [] => some (expandPseudo marker .run)
  | .stop, [] => some (expandPseudo marker .stop)
  | .clrerr, [] => some (expandPseudo marker .clrerr)
  | _, _ => none

/-- One line of assembler text: the commands it stands for, none for a line that is blank or only a comment,
no answer for a line the assembler refuses (R142, R143). -/
def assembleLine (marker : Word) (line : List Char) : Option (List Instr) :=
  let t := trimBlanks (dropComment line)
  if t = [] then some []
  else
    match allKeywords.find? fun k => keywordText k == t.takeWhile fun c => !isBlank c with
    | none => none
    | some k => assembleCommand marker k (readOperands (t.dropWhile fun c => !isBlank c))

end Machine

end Sys2Proof
end

