-- ==== Sys2Proof/Tests/Slice0.lean ====
section
/-! SUPPORT. Tests of the model on the vectors of spec/95_test_vectors.md and on words and values worked out
from the rules, and one witness per statement that its hypotheses can be met. -/

namespace Sys2Proof

namespace Tests

open Machine

/-! ### Which commands are well-formed, which words are refused -/

/-- R133: a batch length lies in 1 to 16. -/
theorem test_batch_of_zero_bits_is_ill_formed : (Instr.dbatch 0 0#16).wellFormed = false := by decide

theorem test_batch_of_seventeen_bits_is_ill_formed : (Instr.dbatch 17 0#16).wellFormed = false := by decide

theorem test_batch_of_sixteen_bits_is_well_formed : (Instr.dbatch 16 0xFFFF#16).wellFormed = true := by decide

/-- R142: the assembler refuses a batch with a bit above its length, which the core ignores. -/
theorem test_assembler_refuses_bits_above_the_batch :
    (Instr.dbatch 4 0x00F5#16).assemblable = false ∧ (Instr.dbatch 4 0x00F5#16).wellFormed = true := by decide

/-- V-ENC-2, 4, 7, 9, 12 and the examples of R138. -/
theorem test_must_be_zero_bits_are_refused :
    [0x00000001#32, 0x10000002#32, 0x20010000#32, 0x30000100#32, 0x40000001#32, 0x60000104#32].map
      (fun w => decide (decode w 0#32 = .error .mustBeZero)) = List.replicate 6 true := by decide

/-- V-ENC-14. -/
theorem test_reserved_ops_are_refused :
    [0xA0000000#32, 0xF0000000#32, 0xFFFFFFFF#32].map
      (fun w => decide (decode w 0#32 = .error .reservedOp)) = List.replicate 3 true := by decide

/-! ### Words written out bit by bit from R132 and R137 decode to their command -/

theorem test_decode_nop : decode 0b0000_0000_00000000_00000000_00000000#32 0#32 = .ok .nop := by decide

theorem test_decode_dbit : decode 0b0001_0000_00000000_00000000_00000001#32 0#32 = .ok (.dbit true) := by decide

theorem test_decode_dbatch :
    decode 0b0010_0011_00000000_10100101_11110101#32 0#32 = .ok (.dbatch 4 0xA5F5#16) := by decide

theorem test_decode_ebyte : decode 0b0011_0000_00000000_00000000_10101011#32 0#32 = .ok (.ebyte 0xAB#8) := by
  decide

theorem test_decode_emsg : decode 0b0100_0000_00000000_00000000_00000000#32 0#32 = .ok .emsg := by decide

theorem test_decode_einvoke : decode 0b0101_0000_00000000_00000000_00000000#32 0#32 = .ok .einvoke := by decide

theorem test_decode_csrr : decode 0b0110_0000_00000000_00000000_00000100#32 7#32 = .ok (.csrr 0x04#8) := by decide

theorem test_decode_csrw :
    decode 0b0111_0000_00000000_00000000_00000010#32 0xFFFF8FFF#32 = .ok (.csrw 0x02#8 0xFFFF8FFF#32) := by decide

theorem test_decode_cntclr : decode 0b1000_0000_00000000_00000000_00000000#32 0#32 = .ok .cntclr := by decide

theorem test_decode_reinit : decode 0b1001_0000_00000000_00000000_00000000#32 0#32 = .ok .reinit := by decide

/-- The command word is bits 31 to 0 of the table word and the operand word bits 63 to 32 (log 12). -/
theorem test_table_word :
    decodeTableWord 32 0x70000001 = some (.csrw 0x01#8 0#32) ∧
    decodeTableWord 64 0x000021C370000001 = some (.csrw 0x01#8 0x000021C3#32) ∧
    decodeTableWord 32 0xA0000000 = none := by decide

/-! ### The assembler -/

/-- R142: names and hexadecimal numbers; P1 line 1. -/
theorem test_assemble_csrw :
    assembleLine Config.syncReset "csrw DEC_CFG, 0x000021C3 ; configure".toList =
      some [.csrw 0x01#8 0x000021C3#32] := by decide +kernel

/-- R143: the pseudo-commands. -/
theorem test_assemble_pseudo :
    assembleLine Config.syncReset "dmarker".toList = some [.dbatch 16 0x1ACF#16, .dbatch 16 0xFC1D#16] ∧
    assembleLine Config.syncReset "clrerr".toList = some [.csrw 0x04#8 0x1F00#32] ∧
    assembleLine Config.syncReset "dbyte 0x4C".toList = some [.dbatch 8 0x4C#16] := by decide +kernel

theorem test_assembler_refuses :
    assembleLine Config.syncReset "dbatch 4, 16".toList = none ∧
    assembleLine Config.syncReset "ebyte 256".toList = none ∧
    assembleLine Config.syncReset "dbit 2".toList = none ∧
    assembleLine Config.syncReset "nop 1".toList = none := by decide +kernel

/-! ### One step on a small state -/

/-- What a property of the next state is, if there is one. -/
def after {α : Type} (o : Host.Outcome State Fault Refusal) (f : State → α) : Option α :=
  match o with
  | .next t => some (f t)
  | .fault r => nomatch r
  | .refused _ => none

/-- The core just after `run`. -/
def running : State := { State.reset with run := true }

/-- The core in message mode. -/
def messageMode (idle : Bool) : State :=
  { running with encCfg := { EncCfg.reset with msgMode := true, idleEn := idle } }

/-- The core in Codeword with `byte` bytes and `bit` bits of a codeword received. -/
def inCodeword (byte : BitVec 11) (bit : BitVec 3) : State :=
  { running with dec := { Decoder.reset with dstate := .codeword, bytecnt := byte, bitcnt := bit, sr := 0x7F#32 } }

/-- The core in stream mode with `n` bytes of a payload unit received. -/
def building (n : BitVec 16) : State := { running with enc := { Encoder.reset with ecount := n } }

/-- A message of `n` bytes queued. -/
def queued (n : BitVec 16) : State :=
  { messageMode true with enc := { Encoder.reset with ecount := n, pending := true } }

/-- R400. -/
theorem test_nop : after (exec .nop { running with rdata := 5#32 }) (fun t => (t.rdata, t.run)) = some (0#32, true) := by
  decide

/-- V-SYNC-1: the marker's last bit declares sync and stays in the shift register. -/
theorem test_dbit_sync :
    after (exec (.dbit true) { running with dec := { Decoder.reset with sr := 0x0D67FE0E#32 } })
      (fun t => (t.dec.dstate, t.dec.sr, t.counters.framesReceived, decPosWord t)) =
      some (.codeword, 0x1ACFFC1D#32, 1#32, 0#32) := by decide +kernel

/-- V-EVT-2: RUN = 0. -/
theorem test_dbit_stopped :
    after (exec (.dbit true) State.reset) (fun t => (t.dec.sr, statusWord t)) = some (0#32, 0x00000800#32) := by
  decide +kernel

/-- V-SYNC-3: eleven 1 bits after the marker. -/
theorem test_dbatch_codeword :
    after (exec (.dbatch 11 0x07FF#16)
        { running with dec := { Decoder.reset with dstate := .codeword, sr := 0x1ACFFC1D#32 } })
      (fun t => (t.dec.sr, bufRead t.dec.cw 0, decPosWord t)) =
      some (0x7FE0EFFF#32, 0xFF#8, 0x00010003#32) := by decide +kernel

/-- V-SYNC-4: the bits above the batch length are ignored. -/
theorem test_dbatch_search :
    after (exec (.dbatch 4 0x00F5#16) running) (fun t => (t.dec.sr, t.dec.dstate)) =
      some (0x00000005#32, .syncSearch) := by decide +kernel

/-- R251: a byte in stream mode, the unit not complete. -/
theorem test_ebyte_stream :
    after (exec (.ebyte 0x55#8) (building 7#16))
      (fun t => (bufRead t.enc.ebuf 7, t.enc.ecount, t.tx.length)) = some (0x55#8, 8#16, 0) := by decide +kernel

/-- V-ASM-5: the count of a message saturates. -/
theorem test_ebyte_saturates :
    after (exec (.ebyte 1#8) { messageMode true with enc := { Encoder.reset with ecount := 0xFFFF#16 } })
      (fun t => t.enc.ecount) = some 0xFFFF#16 := by decide +kernel

/-- The example of R254. -/
theorem test_emsg :
    after (exec .emsg { messageMode false with enc := { Encoder.reset with ecount := 223#16 } })
      (fun t => (t.enc.pending, t.enc.ecount, statusWord t)) = some (true, 223#16, 0x00000004#32) := by
  decide +kernel

/-- V-ASM-6: EMSG in stream mode. -/
theorem test_emsg_stream : after (exec .emsg running) statusWord = some 0x00000800#32 := by decide +kernel

/-- V-ASM-3. -/
theorem test_einvoke_nothing_queued :
    after (exec .einvoke (messageMode false)) (fun t => (statusWord t, t.tx)) = some (0x00000200#32, []) := by
  decide +kernel

/-- P4 lines 8 and 9: a length mismatch. -/
theorem test_einvoke_length_mismatch :
    after (exec .einvoke (queued 3#16)) (fun t => (statusWord t, t.enc.ecount, t.tx)) =
      some (0x00000400#32, 0#16, []) := by decide +kernel

/-- V-CTL-1. -/
theorem test_csrr_after_reset :
    [0x00#8, 0x01#8, 0x02#8, 0x03#8, 0x04#8, 0x05#8, 0x0D#8, 0x0E#8, 0x0F#8, 0x80#8].map
      (fun a => after (exec (.csrr a) State.reset) State.rdata) =
      [some 0#32, some 0x1000#32, some 0x1000#32, some 0x1ACFFC1D#32, some 0#32, some 0#32, some 0#32,
        some 8#32, some 0#32, some 0#32] := by decide +kernel

/-- V-CTL-2. -/
theorem test_csrw_dec_cfg :
    after (exec (.csrw 0x01#8 0x00008C3F#32) State.reset) (fun t => t.decCfg.word) = some 0x0000803F#32 ∧
    after (exec (.csrw 0x01#8 0xFFFFFFFF#32) State.reset) (fun t => (t.decCfg.word, statusWord t)) =
      some (0x00001000#32, 0x00001000#32) := by decide +kernel

/-- V-CTL-4. -/
theorem test_csrw_status :
    after (exec (.csrw 0x04#8 0x00000400#32)
      { running with sticky := { Sticky.reset with lenErr := true, cmdErr := true, cfgErr := true } })
      statusWord = some 0x00001800#32 := by decide +kernel

/-- V-CTL-5. -/
theorem test_cntclr :
    after (exec .cntclr { inCodeword 100#11 0#3 with counters := { Counters.reset with framesReceived := 5#32 } })
      (fun t => (t.counters.framesReceived, decPosWord t, t.dec.dstate)) =
      some (0#32, 0x00640000#32, .codeword) := by decide +kernel

/-- V-CTL-6. -/
theorem test_reinit :
    after (exec .reinit { inCodeword 100#11 0#3 with counters := { Counters.reset with framesReceived := 5#32 } })
      (fun t => (t.counters.framesReceived, decPosWord t, t.dec.sr, statusWord t, t.run)) =
      some (0#32, 0#32, 0#32, 0#32, true) := by decide +kernel

/-- The example after V-ENC-14, as a step. -/
theorem test_step_illegal :
    after (step (State.reset.withFetchWord 32 0xA0000000)) (fun t => (statusWord t, t.rdata, t.port)) =
      some (0x00000800#32, 0#32, []) := by decide +kernel

/-- P1 line 1, as a step from reset. -/
theorem test_step_csrw :
    after (step (State.reset.withFetchWord 64 0x000021C370000001)) (fun t => t.decCfg) =
      some { t := 3#6, rsEn := true, ilvEn := true, dscrEn := true, dual := false, depth := 2#4 } := by
  decide +kernel

/-! ### Functions -/

/-- V-ILV-1 to V-ILV-5. -/
theorem test_positions :
    pos .ilv 2 255 1 3 = 7 ∧ pos .contig 2 255 1 3 = 258 ∧ pos .contig 2 223 1 0 = 223 ∧
    pos .ilv 8 223 7 222 = 1783 ∧ pos .ilv 8 255 7 254 = 2039 ∧ pos .contig 8 255 7 254 = 2039 := by decide

/-- V-SCR-1. -/
theorem test_cover :
    coverTable.take 8 = [0xFF#8, 0x48#8, 0x0E#8, 0xC0#8, 0x9A#8, 0x0D#8, 0x70#8, 0xBC#8] ∧
    coverAt defaultCover 253 = 0xF5#8 ∧ coverAt defaultCover 254 = 0x58#8 ∧ coverTable.length = 255 ∧
    (coverTable.map BitVec.toNat).sum = 32640 := by decide +kernel

/-- V-SCR-2. -/
theorem test_scramble :
    0x12#8 ^^^ coverAt defaultCover 0 = 0xED#8 ∧ 0xAB#8 ^^^ coverAt defaultCover 255 = 0x54#8 ∧
    coverAt defaultCover 300 = coverTable.getD 45 0#8 := by
  decide +kernel

/-- V-SYNC-8. -/
theorem test_partial_marker_distances :
    [1, 2, 7, 16, 17, 20, 30, 31, 32].map (fun k => hamming (0x1ACFFC1D#32 >>> (32 - k)) 0x1ACFFC1D#32) =
      [19, 19, 16, 18, 15, 14, 13, 11, 0] := by decide +kernel

/-- V-FILL-2 and V-FILL-3. -/
theorem test_fill :
    fillFast ((Vector.replicate Config.plSize 0#8).setIfInBounds 2 5#8) = true ∧
    fillExhaustive ((Vector.replicate Config.plSize 0#8).setIfInBounds 2 5#8) 223 = false ∧
    fillFast ((Vector.replicate Config.plSize 0#8).setIfInBounds 1 1#8) = false := by decide +kernel

/-- R261 on one-byte stand-ins. -/
theorem test_assemble :
    assemble false false [1#8] [2#8] = [1#8, 2#8] ∧ assemble true false [1#8] [2#8] = [1#8, 2#8, 1#8] ∧
    assemble true true [1#8] [2#8] = [2#8, 1#8] := by decide

/-- The core at depth 1 with the codeword that is 0 but for byte `k`, which is `v`. -/
def oneByteReceived (rs : Bool) (k : Nat) (v : Byte) : State :=
  { running with
    decCfg := { DecCfg.reset with rsEn := rs }
    dec := { Decoder.reset with cw := (Vector.replicate Config.cwSize 0#8).setIfInBounds k v } }

/-- At depth 1 the payload of an attempt is the data of its only sub-block (R219). -/
theorem bufRead_attempt_pl (P : Params) (rs : Bool) (k : Nat) (v : Byte)
    (h : ∀ blk, (rsDecodeCall P.engine rs false blk).block = blk) {j : Nat} (hj : j < 223) :
    bufRead (runAttempt P (oneByteReceived rs k v) (oneByteReceived rs k v).dec.cw).pl j =
      if j = k then v else 0#8 := by
  have hd : decDepth (oneByteReceived rs k v) = 1 := rfl
  have hp : pos .contig 1 223 0 j = j := by show 0 * 223 + j = j; omega
  have hb := bufRead_insertBlocks_pos .contig (n := 1) (i := 0)
    (fun i => (subBlockOutcome P.engine (oneByteReceived rs k v) (oneByteReceived rs k v).dec.cw i).block)
    (oneByteReceived rs k v).dec.pl 1 (Nat.le_refl 1) Nat.one_pos hj (show 1 * 223 ≤ 1784 by decide)
  rw [hp] at hb
  rw [runAttempt_eq, hd, attemptUpTo_pl, hd]
  refine hb.trans ?_
  rw [subBlockOutcome]
  show bufRead (rsDecodeCall P.engine rs false _).block j = _
  rw [h, hd, bufRead_extractBlock _ _ _ _ _ (show j < 255 by omega)]
  show bufRead (bufWrite (Vector.replicate Config.cwSize 0#8) k v) (0 * 255 + j) = _
  rw [bufRead_bufWrite, bufRead_replicate_zero, Nat.zero_mul, Nat.zero_add]
  simp only [eq_comm (a := k), show j < Config.cwSize from Nat.lt_of_lt_of_le hj (by decide), and_true]

/-- V-FILL-2, the decode attempt alone: fill by the fast detector, not by the exhaustive one. -/
theorem test_decode_attempt_of_a_fill_frame :
    (statusWord (decodeFrame thisCore (oneByteReceived false 2 5#8)),
      (decodeFrame thisCore (oneByteReceived false 2 5#8)).rx,
      (decodeFrame thisCore (oneByteReceived false 2 5#8)).counters.fillFramesDecoded) =
      (0x00000058#32, [], 1#32) := by
  have hpl := fun {j : Nat} (hj : j < 223) =>
    bufRead_attempt_pl thisCore false 2 5#8 (fun _ => rfl) hj
  have hfast := (fillFast_iff _).mpr ⟨hpl (show 0 < 223 by decide), hpl (show 1 < 223 by decide)⟩
  have hexh : fillExhaustive (runAttempt thisCore (oneByteReceived false 2 5#8)
      (oneByteReceived false 2 5#8).dec.cw).pl 223 = false := by
    rw [← Bool.not_eq_true, fillExhaustive_iff]
    exact fun h => absurd ((hpl (show 2 < 223 by decide)).symm.trans (h 2 (by decide))) (by decide)
  have hdc : descrambled thisCore.cover (oneByteReceived false 2 5#8) = (oneByteReceived false 2 5#8).dec.cw := rfl
  rw [decodeFrame_eq, hdc, concludeAttempt_eq, hfast, show decPLen (oneByteReceived false 2 5#8) = 223 from rfl, hexh]
  rfl

/-- An engine that reports every block uncorrectable. -/
def refusingEngine : RsEngine := ⟨fun _ _ => none, fun _ _ => Vector.replicate Config.rsP 0#8⟩

/-- This core with that engine. -/
def refusingCore : Params := { thisCore with engine := refusingEngine }

/-- V-DEC-2: a failed frame is recorded and not published. -/
theorem test_decode_attempt_that_fails :
    (statusWord (decodeFrame refusingCore (oneByteReceived true 0 1#8)),
      (decodeFrame refusingCore (oneByteReceived true 0 1#8)).rx,
      (decodeFrame refusingCore (oneByteReceived true 0 1#8)).counters.framesDecoded) = (0x00010140#32, [], 0#32) := by
  have hpl := fun {j : Nat} (hj : j < 223) =>
    bufRead_attempt_pl refusingCore true 0 1#8 (fun _ => rfl) hj
  have hfast : fillFast (runAttempt refusingCore (oneByteReceived true 0 1#8)
      (oneByteReceived true 0 1#8).dec.cw).pl = false := by
    rw [← Bool.not_eq_true, fillFast_iff]
    exact fun h => absurd ((hpl (show 0 < 223 by decide)).symm.trans h.1) (by decide)
  have hexh : fillExhaustive (runAttempt refusingCore (oneByteReceived true 0 1#8)
      (oneByteReceived true 0 1#8).dec.cw).pl 223 = false := by
    rw [← Bool.not_eq_true, fillExhaustive_iff]
    exact fun h => absurd ((hpl (show 0 < 223 by decide)).symm.trans (h 0 (by decide))) (by decide)
  have hdc : descrambled refusingCore.cover (oneByteReceived true 0 1#8) = (oneByteReceived true 0 1#8).dec.cw := rfl
  rw [decodeFrame_eq, hdc, concludeAttempt_eq, hfast, show decPLen (oneByteReceived true 0 1#8) = 223 from rfl, hexh]
  decide +kernel

/-- The core with scrambling on and everything else off. -/
def scrambling : State := { running with encCfg := { EncCfg.reset with scrEn := true } }

theorem getD_zeros (n j : Nat) : (zeros n).getD j (0#8 : Byte) = 0#8 := by
  rw [List.getD_eq_getElem?_getD, zeros, List.getElem?_replicate]
  split <;> rfl

/-- V-SCR-4: the codeword of a scrambled idle frame is the cover sequence, whichever it is. -/
theorem test_scrambled_idle_codeword (P : Params) (k : Nat) (hk : k < 255) :
    (encodedCodeword P scrambling (zeros 223))[k]? = some (coverAt P.cover k) := by
  have hp : pos (encLayout scrambling) (encDepth scrambling) 255 0 k = k := by
    show 0 * 255 + k = k; omega
  have hb := bufRead_assembledCodeword P.engine scrambling (zeros 223) (by decide) (i := 0) Nat.one_pos hk
  have hd : bufRead (payloadEncodedBlock P.engine scrambling (zeros 223) 0) k = 0#8 := by
    rw [payloadEncodedBlock, bufRead_encodedBlock P.engine _ _ _ hk]
    split
    · rename_i h
      rw [bufRead_payloadBlock _ _ _ h]
      exact getD_zeros _ _
    · exact bufRead_replicate_zero _
  rw [hp, hd] at hb
  have h255 : encDepth scrambling * 255 = 255 := rfl
  rw [getElem?_encodedCodeword P scrambling (zeros 223) (by decide) (by rw [h255]; exact hk), hb]
  exact congrArg some BitVec.zero_xor

/-! ### Other values of the parameters (R8) -/

/-- A core of depth 1 only, with 4-bit counters, an 8-bit byte count, a constant cover sequence, another marker,
and the engine `e`. -/
def smallCore (e : RsEngine) : Params :=
  { pMaxI := 1, cntWidth := 4, ecntWidth := 8, cover := fun _ => 0xA5#8, syncReset := 0x12345678#32, engine := e
    pMaxI_legal := by decide, cntWidth_legal := by decide, ecntWidth_legal := by decide }

/-- R58, R70 at P_MAX_I = 1: depth 2 is refused, depth 1 is not, PARAMS reads 1. -/
theorem test_smaller_largest_depth :
    (effectAt (smallCore refusingEngine) (.csrw 0x01#8 0x2000#32) State.reset).decCfg.depth = 1#4 ∧
    (effectAt (smallCore refusingEngine) (.csrw 0x01#8 0x2000#32) State.reset).sticky.cfgErr = true ∧
    (effectAt (smallCore refusingEngine) (.csrw 0x02#8 0x1001#32) State.reset).encCfg.rsEn = true ∧
    (effectAt (smallCore refusingEngine) (.csrr 0x0E#8) State.reset).rdata = 1#32 := by decide +kernel

/-- R48, R49 with narrower counts: a frame counter wraps from 15 to 0, the byte count of a message stops at 255. -/
theorem test_narrower_counts :
    (effectAt (smallCore refusingEngine) (.dbit true)
      { running with
        dec := { Decoder.reset with sr := 0x0D67FE0E#32 }
        counters := { Counters.reset with framesReceived := 15#32 } }).counters.framesReceived = 0#32 ∧
    (effectAt (smallCore refusingEngine) (.ebyte 1#8)
      { messageMode true with enc := { Encoder.reset with ecount := 254#16 } }).enc.ecount = 255#16 ∧
    (effectAt (smallCore refusingEngine) (.ebyte 1#8)
      { messageMode true with enc := { Encoder.reset with ecount := 255#16 } }).enc.ecount = 255#16 := by
  decide +kernel

/-- R320 with another COVER; R80 with another SYNC_RESET. -/
theorem test_other_cover_and_marker :
    bufRead (scramble (smallCore refusingEngine).cover 2 (Vector.replicate 3 0xFF#8)) 1 = 0x5A#8 ∧
    bufRead (scramble (smallCore refusingEngine).cover 2 (Vector.replicate 3 0xFF#8)) 2 = 0xFF#8 ∧
    (State.resetWith (smallCore refusingEngine).syncReset).syncWord = 0x12345678#32 ∧
    (hardwareReset (smallCore refusingEngine) running).syncWord = 0x12345678#32 := by decide +kernel

/-! ### Witnesses: the hypotheses of each statement can be met -/

/-- A state with one transaction pending. -/
def pendingWord (s : State) (cmd wdata : Word) : State := { s with port := [.command cmd wdata] }

theorem coreInv_of_running_reset : CoreInv running :=
  ⟨by decide, by decide, by decide, by decide, by decide, by decide, fun _ => rfl, by decide, by decide,
    fun _ h => (by cases h)⟩

theorem coreInv_messageMode (idle : Bool) : CoreInv (messageMode idle) :=
  ⟨by cases idle <;> decide, by cases idle <;> decide, by cases idle <;> decide, by cases idle <;> decide,
    by cases idle <;> decide, by cases idle <;> decide, fun _ => rfl, by cases idle <;> decide,
    by cases idle <;> decide, fun _ h => (by cases h)⟩

theorem coreInv_inCodeword : CoreInv (inCodeword 254#11 7#3) :=
  ⟨by decide, by decide, by decide, by decide, by decide, by decide, fun _ => rfl, by decide, by decide,
    fun _ h => (by cases h)⟩

theorem coreInv_pendingWord {s : State} (h : CoreInv s) (cmd wdata : Word) : CoreInv (pendingWord s cmd wdata) :=
  ⟨h.decDepth, h.encDepth, h.searching, h.inBuffer, h.accumulating, h.streaming, h.noResult, h.verdicts, h.mask,
    h.messages⟩

theorem witness_WordSelectsItsRow :
    (Opcode.dbatch, 0x20000000#32, 0xF0FF0000#32) ∈ commandRows ∧
    0x2F00FFFF#32 &&& 0xF0FF0000#32 = 0x20000000#32 := by decide

theorem witness_OperandsAreTheirFields :
    decode 0x10000001#32 0#32 = .ok (.dbit true) ∧ decode 0x2F00FFFF#32 0#32 = .ok (.dbatch 16 0xFFFF#16) ∧
    decode 0x300000FF#32 0#32 = .ok (.ebyte 0xFF#8) ∧ decode 0x600000FF#32 0#32 = .ok (.csrr 0xFF#8) ∧
    decode 0x700000FF#32 0xFFFFFFFF#32 = .ok (.csrw 0xFF#8 0xFFFFFFFF#32) := by decide

theorem witness_DecodeOfEncode :
    (Instr.dbatch 1 0#16).wellFormed = true ∧ (Instr.dbatch 16 0xFFFF#16).wellFormed = true ∧
    (∀ a v, Instr.dbatch 16 0xFFFF#16 ≠ .csrw a v) ∧ (Instr.csrw 0xFF#8 0xFFFFFFFF#32).wellFormed = true :=
  ⟨by decide, by decide, fun _ _ h => (by cases h), by decide⟩

theorem witness_EncodeOfDecode : decode 0x2F00FFFF#32 7#32 = .ok (.dbatch 16 0xFFFF#16) := by decide

theorem witness_DispatchOfOneTransaction :
    (pendingWord running 0xA0000000#32 0#32).port = .command 0xA0000000#32 0#32 :: [] ∧
    10 ≤ ((0xA0000000#32 : Word).extractLsb' 28 4).toNat ∧
    (Opcode.dbit, 0x10000000#32, 0xFFFFFFFE#32) ∈ commandRows ∧
    (0x10000000#32 : Word).extractLsb' 28 4 = (0x10000002#32 : Word).extractLsb' 28 4 ∧
    0x10000002#32 &&& 0xFFFFFFFE#32 ≠ 0x10000000#32 ∧ 0x10000001#32 &&& 0xFFFFFFFE#32 = 0x10000000#32 :=
  ⟨rfl, by decide, by decide, by decide, by decide, by decide⟩

/-- An illegal word, and a state for each way a legal word is turned away (V-ASM-6, V-EVT-2). -/
theorem witness_IllegalCommandExactlyWhen :
    (pendingWord running 0xA0000000#32 0#32).port = .command 0xA0000000#32 0#32 :: [] ∧
    (∀ row ∈ commandRows, 0xA0000000#32 &&& row.2.2 ≠ row.2.1) ∧
    (pendingWord running 0xA0000000#32 0#32).sticky.cmdErr = false ∧
    after (step (pendingWord running 0xA0000000#32 0#32)) (fun t => t.sticky.cmdErr) = some true ∧
    (decode 0x10000001#32 0#32 = .ok (.dbit true) ∧ isData (.dbit true) = true ∧ State.reset.run = false) ∧
    ((queued 3#16).encCfg.msgMode = true ∧ (queued 3#16).enc.pending = true) ∧
    running.encCfg.msgMode = false := ⟨rfl, by decide, rfl, rfl, by decide, by decide, rfl⟩

theorem witness_StepRunsTheDecodedCommand :
    (pendingWord running 0x10000001#32 0#32).port = .command 0x10000001#32 0#32 :: [] ∧
    decode 0x10000001#32 0#32 = .ok (.dbit true) ∧ (Instr.dbit true).wellFormed = true ∧
    (pendingWord running (encode (.dbit true)).1 (encode (.dbit true)).2).port =
      .command (encode (.dbit true)).1 (encode (.dbit true)).2 :: [] := ⟨rfl, by decide, rfl, rfl⟩

theorem witness_HardwareResetKeepsTheStreams :
    ({ running with port := [.reset], tx := [1#8], rx := [[2#8]] } : State).port = .reset :: [] := rfl

theorem witness_ReadOnlyRegisters :
    0x05 ≤ (0x05#8).toNat ∧ (0x0E#8).toNat ≤ 0x0E ∧ (0x0D#8).toNat ≤ 0x0D := by decide

theorem witness_ReservedAddressesAreInert : 0x0F ≤ (0x0F#8).toNat ∧ 0x0F ≤ (0xFF#8).toNat := by decide

theorem witness_ReservedBitsReadZero :
    (0x00#8, 0xFFFFFFFE#32) ∈ ([(0x00#8, 0xFFFFFFFE#32), (0x0E#8, 0xFFFFFFF0#32)] : List (BitVec 8 × Word)) := by
  decide

theorem witness_CtrlRegister :
    isData .emsg = true ∧ State.reset.run = false ∧ 1 ≤ (1#8).toNat ∧ (3#8).toNat ≤ 3 ∧ running.run = true ∧
    (1#32).getLsbD 0 = true ∧ (0#32).getLsbD 0 = false := by decide

/-- The depths at the ends of their ranges, for DEC_CFG and ENC_CFG. -/
theorem witness_DecCfgRegister_EncCfgRegister :
    running.run = true ∧ State.reset.run = false ∧ ((0x0000#32 : Word).extractLsb' 12 4).toNat = 0 ∧
    8 < ((0x9000#32 : Word).extractLsb' 12 4).toNat ∧ 1 ≤ ((0x1000#32 : Word).extractLsb' 12 4).toNat ∧
    ((0x8000#32 : Word).extractLsb' 12 4).toNat ≤ 8 := by decide

theorem witness_SyncWordRegister : running.run = true ∧ State.reset.run = false := by decide

theorem witness_ConfigRejectedExactlyWhen :
    (running.run = true ∧ 1 ≤ (3#8).toNat ∧ (3#8).toNat ≤ 3) ∧
    (1 ≤ (2#8).toNat ∧ (2#8).toNat ≤ 2 ∧ ((0#32 : Word).extractLsb' 12 4).toNat = 0) ∧
    8 < ((0x9000#32 : Word).extractLsb' 12 4).toNat ∧
    exec (.csrw 3#8 0#32) running = .next (configRejected running) ∧ running.sticky.cfgErr = false ∧
    (configRejected running).sticky.cfgErr = true := ⟨by decide, by decide, by decide, rfl, rfl, rfl⟩

theorem witness_CntclrClearsTheCounters :
    (0x80000001#32 : Word).extractLsb' 28 4 = 8#4 ∧ (0x80000001#32 : Word) ≠ 0x80000000#32 ∧
    (pendingWord running 0x80000001#32 0#32).port = [.command 0x80000001#32 0#32] := ⟨by decide, by decide, rfl⟩

theorem witness_ReinitKeepsTheConfiguration :
    (0x90000001#32 : Word).extractLsb' 28 4 = 9#4 ∧ (0x90000001#32 : Word) ≠ 0x90000000#32 ∧
    (pendingWord running 0x90000001#32 0#32).port = [.command 0x90000001#32 0#32] := ⟨by decide, by decide, rfl⟩

/-- V-SYNC-1 for the bit that syncs, the same state and a 0 bit for the one that does not, with T = 0. -/
theorem witness_BitInSyncSearch :
    let s : State := { running with dec := { Decoder.reset with sr := 0x0D67FE0E#32 } }
    s.run = true ∧ s.dec.dstate = .syncSearch ∧
    (0x1ACFFC1D#32 : Word).toNat = (2 * s.dec.sr.toNat + true.toNat) % 2 ^ 32 ∧
    ((List.range 32).filter fun k => (0x1ACFFC1D#32 : Word).getLsbD k != s.syncWord.getLsbD k).length ≤
      s.decCfg.t.toNat ∧
    (0x1ACFFC1C#32 : Word).toNat = (2 * s.dec.sr.toNat + false.toNat) % 2 ^ 32 ∧
    s.decCfg.t.toNat <
      ((List.range 32).filter fun k => (0x1ACFFC1C#32 : Word).getLsbD k != s.syncWord.getLsbD k).length := by
  decide

/-- A bit within a byte, the last bit of a byte, and the last bit of a codeword. -/
theorem witness_BitInCodeword :
    (inCodeword 2039#11 6#3).run = true ∧ (inCodeword 2039#11 6#3).dec.dstate = .codeword ∧
    (inCodeword 2039#11 6#3).dec.bytecnt.toNat < 2040 ∧ (inCodeword 2039#11 6#3).dec.bitcnt.toNat < 7 ∧
    (0xFF#32 : Word).toNat = (2 * (inCodeword 2039#11 6#3).dec.sr.toNat + true.toNat) % 2 ^ 32 ∧
    (inCodeword 253#11 7#3).dec.bitcnt.toNat = 7 ∧
    (inCodeword 253#11 7#3).dec.bytecnt.toNat + 1 ≠ (inCodeword 253#11 7#3).decCfg.depth.toNat * 255 ∧
    (inCodeword 254#11 7#3).dec.bytecnt.toNat + 1 = (inCodeword 254#11 7#3).decCfg.depth.toNat * 255 := by decide

theorem witness_BatchIsItsBits :
    (∀ k < 4, (0x00F5#16).getLsbD k = (0x0005#16).getLsbD k) ∧
    decode 0x20000000#32 0#32 = .ok (.dbatch 1 0#16) ∧ decode 0x2F000000#32 0#32 = .ok (.dbatch 16 0#16) ∧
    (Instr.dbatch 4 0x000F#16).assemblable = true := by decide

theorem witness_FirstBitIsMostSignificant :
    (List.replicate 32 true).length = 32 ∧ (List.replicate 8 true).length = 8 := by decide

theorem witness_ThresholdCountsBitErrors : 32 ≤ (32#6).toNat ∧ 32 ≤ (63#6).toNat := by decide

/-- At T = 10, the largest threshold the default marker allows (R610). -/
theorem witness_MarkerLocksOnItsLastBit :
    let s : State := { running with decCfg := { DecCfg.reset with t := 10#6 } }
    s.run = true ∧ s.dec.dstate = .syncSearch ∧ s.dec.sr = 0#32 ∧ NoEarlyLock s.syncWord s.decCfg.t := by
  refine ⟨rfl, rfl, rfl, ?_⟩
  unfold NoEarlyLock
  decide +kernel

/-- The depths 1 and 8, for the statements about a decode attempt. -/
theorem witness_DecodeAttemptBuffers_DecodeAttemptOutcome :
    1 ≤ running.decCfg.depth.toNat ∧ running.decCfg.depth.toNat ≤ 8 ∧
    1 ≤ (DecCfg.ofWord 0x8000#32).depth.toNat ∧ (DecCfg.ofWord 0x8000#32).depth.toNat ≤ 8 := by decide

theorem blockUsed_of_zeros (P : Params) {i j : Nat} (hj : j < 223) : bufRead (blockUsed P running i) j = 0#8 := by
  have h : ∀ k, receivedByte P.cover running k = 0#8 := fun k => bufRead_replicate_zero k
  show bufRead (receivedBlock P.cover running i) j = 0#8
  rw [receivedBlock, bufRead_ofFn _ (by omega : j < 255), h]

theorem witness_DecodeAttemptPublication (P : Params) :
    1 ≤ running.decCfg.depth.toNat ∧ running.decCfg.depth.toNat ≤ 8 ∧
    IsReceivedPayload P running (List.replicate 223 0#8) := by
  refine ⟨by decide, by decide, List.length_replicate, ?_⟩
  intro i hi j hj
  rw [blockUsed_of_zeros P hj]
  have hi0 : i = 0 := by have : i < 1 := hi; omega
  subst hi0
  show (List.replicate 223 (0#8 : Byte))[0 * 223 + j]? = some 0#8
  rw [List.getElem?_replicate, if_pos (by omega)]

theorem witness_FillDetectors : 0 ≤ Config.plSize ∧ Config.plSize ≤ Config.plSize := by decide

theorem witness_DecoderCommandsFrame :
    isDecoderCommand (.dbit true) = true ∧ isDecoderCommand (.dbatch 16 0#16) = true ∧ running.run = true ∧
    State.reset.run = false := by decide

theorem witness_EncoderCommandsFrame :
    isEncoderCommand (.ebyte 0#8) = true ∧ isEncoderCommand .emsg = true ∧ isEncoderCommand .einvoke = true ∧
    State.reset.run = false := by decide

/-- One state for each clause, the counts at the ends of their ranges. -/
theorem witness_PayloadByte :
    State.reset.run = false ∧
    ((building 221#16).run = true ∧ (building 221#16).encCfg.msgMode = false ∧
      (building 221#16).enc.ecount.toNat + 1 < (building 221#16).encCfg.depth.toNat * 223) ∧
    (building 222#16).enc.ecount.toNat + 1 = (building 222#16).encCfg.depth.toNat * 223 ∧
    ((queued 3#16).run = true ∧ (queued 3#16).encCfg.msgMode = true ∧ (queued 3#16).enc.pending = true) ∧
    (let s : State := { messageMode false with enc := { Encoder.reset with ecount := 222#16 } }
     s.encCfg.msgMode = true ∧ s.enc.pending = false ∧ s.enc.ecount.toNat < s.encCfg.depth.toNat * 223) ∧
    (let s : State := { messageMode false with enc := { Encoder.reset with ecount := 223#16 } }
     s.enc.pending = false ∧ s.encCfg.depth.toNat * 223 ≤ s.enc.ecount.toNat) ∧
    (building 222#16).encCfg.depth.toNat ≤ (smallCore refusingEngine).pMaxI ∧
    (building 222#16).enc.ecount.toNat < (building 222#16).encCfg.depth.toNat * 223 := by decide

theorem witness_MessageQueued :
    State.reset.run = false ∧ running.encCfg.msgMode = false ∧ (queued 3#16).enc.pending = true ∧
    ((messageMode true).run = true ∧ (messageMode true).encCfg.msgMode = true ∧
      (messageMode true).enc.pending = false) := by decide

/-- One state for each clause: stream mode, an idle frame, nothing queued, a short message, a whole one. -/
theorem witness_EncoderInvocation :
    (1 ≤ running.encCfg.depth.toNat ∧ running.encCfg.depth.toNat ≤ 8 ∧ running.encCfg.msgMode = false) ∧
    ((messageMode true).run = true ∧ (messageMode true).encCfg.msgMode = true ∧
      (messageMode true).enc.pending = false ∧ (messageMode true).encCfg.idleEn = true) ∧
    ((messageMode false).enc.pending = false ∧ (messageMode false).encCfg.idleEn = false) ∧
    ((queued 222#16).enc.pending = true ∧
      (queued 222#16).enc.ecount.toNat ≠ (queued 222#16).encCfg.depth.toNat * 223) ∧
    ((queued 223#16).enc.pending = true ∧
      (queued 223#16).enc.ecount.toNat = (queued 223#16).encCfg.depth.toNat * 223) := by decide

/-- Normal mode, and tail mode before and after the first frame. -/
theorem witness_FrameBytes_FrameLengths :
    1 ≤ running.encCfg.depth.toNat ∧ running.encCfg.depth.toNat ≤ 8 ∧
    (List.replicate 223 (0x55#8 : Byte)).length = running.encCfg.depth.toNat * 223 ∧
    running.encCfg.tail = false ∧
    (let s : State := { running with encCfg := { EncCfg.reset with tail := true } }
     s.encCfg.tail = true ∧ s.enc.started = false) ∧
    (let s : State := { running with
        encCfg := { EncCfg.reset with tail := true }, enc := { Encoder.reset with started := true } }
     s.encCfg.tail = true ∧ s.enc.started = true) := by decide +kernel

/-- The last sub-block and the last byte at depth 8, for the statements about the address map. -/
theorem witness_InterleavePositions_InterleaveIsABijection_ExtractAfterInsert :
    7 < 8 ∧ 254 < 255 ∧ 222 < 223 ∧ 2039 < 8 * 255 ∧ 8 * 255 ≤ Config.cwSize ∧ 6 ≠ 7 := by
  decide

theorem witness_ScrambleIsItsOwnInverse : 509 < Config.cwSize ∧ 509 < 510 ∧ 510 ≤ 510 := by decide

/-- Both values of RUN; and the rising edge of RUN in a Codeword state, which runs DatapathInit. -/
theorem witness_ConfigurationLock :
    nextIsReset (pendingWord running 0#32 0#32) = false ∧
    step (pendingWord running 0#32 0#32) = .next running ∧ running.run = true ∧
    step (pendingWord State.reset 0#32 0#32) = .next State.reset ∧ State.reset.run = false ∧
    after (step (pendingWord { inCodeword 254#11 7#3 with run := false } 0x70000000#32 1#32))
      (fun t => (t.dec.dstate, t.dec.sr, t.dec.bytecnt)) = some (.syncSearch, 0#32, 0#11) :=
  ⟨rfl, rfl, rfl, rfl, rfl, rfl⟩

/-- An idle frame (V-ASM-2) is a step on which TX grows. -/
theorem witness_TxGrowsByWholeFrames :
    ∃ t, CoreInv (pendingWord (messageMode true) 0x50000000#32 0#32) ∧
      step (pendingWord (messageMode true) 0x50000000#32 0#32) = .next t ∧
      t.tx ≠ (pendingWord (messageMode true) 0x50000000#32 0#32).tx := by
  refine ⟨_, coreInv_pendingWord (coreInv_messageMode true) _ _, step_eq _, ?_⟩
  have hs : stepTo (pendingWord (messageMode true) 0x50000000#32 0#32) =
      invokeEffect thisCore (messageMode true) := rfl
  rw [hs]
  have hn : (invokeEffect thisCore (messageMode true)).tx =
      [] ++ frameOf thisCore (messageMode true) (zeros (encPLen (messageMode true))) := rfl
  rw [hn]
  intro h
  have hl := congrArg List.length h
  rw [List.nil_append, length_frameOf _ _ _ (by decide)] at hl
  exact absurd hl (by decide)

/-- The bit that completes a codeword is a step. -/
theorem witness_RxGrowsByOnePayload :
    ∃ t, CoreInv (pendingWord (inCodeword 254#11 7#3) 0x10000001#32 0#32) ∧
      step (pendingWord (inCodeword 254#11 7#3) 0x10000001#32 0#32) = .next t :=
  ⟨_, coreInv_pendingWord coreInv_inCodeword _ _, step_eq _⟩

theorem witness_CountersOnlyAdvance :
    CoreInv (pendingWord running 0x10000001#32 0#32) ∧
    (∃ t, step (pendingWord running 0x10000001#32 0#32) = .next t) ∧
    nextIsReset (pendingWord running 0x10000001#32 0#32) = false ∧
    nextCommand (pendingWord running 0x10000001#32 0#32) ≠ some .cntclr ∧
    nextCommand (pendingWord running 0x10000001#32 0#32) ≠ some .reinit :=
  ⟨coreInv_pendingWord coreInv_of_running_reset _ _, ⟨_, step_eq _⟩, rfl, by decide, by decide⟩

/-- A bit cleared, and each bit set but UNCORR, which only an answer of the uninterpreted engine sets. -/
theorem witness_StickyBitsSetAndCleared :
    after (step (pendingWord (configRejected running) 0x70000004#32 0x1000#32)) (fun t => t.sticky.cfgErr) =
      some false ∧
    after (step (pendingWord (messageMode false) 0x50000000#32 0#32)) (fun t => t.sticky.msgErr) = some true ∧
    after (step (pendingWord (queued 3#16) 0x50000000#32 0#32)) (fun t => t.sticky.lenErr) = some true ∧
    after (step (pendingWord running 0xA0000000#32 0#32)) (fun t => t.sticky.cmdErr) = some true ∧
    after (step (pendingWord running 0x70000003#32 0#32)) (fun t => t.sticky.cfgErr) = some true := by
  decide +kernel

/-- REINIT after a decode attempt changes the results, and so does the last bit of a codeword, fed alone or as the
last of a batch. -/
theorem witness_ResultsKeptBetweenAttempts :
    (let s := pendingWord { running with last := { LastResult.reset with valid := true, ok := true } } 0x90000000#32 0#32
     CoreInv s ∧ ∃ t, step s = .next t ∧ t.last ≠ s.last) ∧
    (let s := pendingWord (inCodeword 254#11 7#3) 0x10000001#32 0#32
     CoreInv s ∧ (∃ t, step s = .next t ∧ t.last ≠ s.last) ∧ nextCommand s = some (.dbit true) ∧
       1 * 255 * 8 ≤ 254 * 8 + 7 + bitsFed (.dbit true)) ∧
    (let s := pendingWord (inCodeword 253#11 0#3) 0x2F00FFFF#32 0#32
     CoreInv s ∧ (∃ t, step s = .next t ∧ t.last ≠ s.last) ∧ nextCommand s = some (.dbatch 16 0xFFFF#16) ∧
       1 * 255 * 8 ≤ 253 * 8 + 0 + bitsFed (.dbatch 16 0xFFFF#16)) := by
  refine ⟨⟨?_, _, step_eq _, by decide +kernel⟩,
    ⟨coreInv_pendingWord coreInv_inCodeword _ _, ⟨_, step_eq _, by decide +kernel⟩, by decide, by decide⟩,
    ⟨?_, ⟨_, step_eq _, by decide +kernel⟩, by decide, by decide⟩⟩
  · exact ⟨by decide, by decide, by decide, by decide, by decide, by decide, fun h => (by cases h), by decide,
      by decide, fun _ h => (by cases h)⟩
  · exact ⟨by decide, by decide, by decide, by decide, by decide, by decide, fun _ => rfl, by decide, by decide,
      fun _ h => (by cases h)⟩

/-- Both states of the decoder, the end of a codeword, and a REINIT that leaves Codeword. -/
theorem witness_DecoderStateTransitions :
    (CoreInv running ∧ running.run = true ∧ running.dec.dstate = .syncSearch) ∧
    (CoreInv (inCodeword 254#11 7#3) ∧ (inCodeword 254#11 7#3).run = true ∧
      (inCodeword 254#11 7#3).dec.dstate = .codeword) ∧
    after (step (pendingWord (inCodeword 254#11 7#3) 0x90000000#32 0#32)) (fun t => t.dec.dstate) =
      some .syncSearch :=
  ⟨⟨coreInv_of_running_reset, rfl, rfl⟩, ⟨coreInv_inCodeword, rfl, rfl⟩, rfl⟩

theorem witness_RecordsSteerNothing : ∃ t, exec (.csrr 0x04#8) running = .next t := ⟨_, rfl⟩

/-- The bit that completes a codeword, here and in a core with narrower counts that are at their largest. -/
theorem witness_EveryStepKeepsTheInvariant :
    (∃ t, CoreInv (pendingWord (inCodeword 254#11 7#3) 0x10000001#32 0#32) ∧
      step (pendingWord (inCodeword 254#11 7#3) 0x10000001#32 0#32) = .next t) ∧
    (let s : State := pendingWord { inCodeword 254#11 7#3 with
        counters := { Counters.reset with framesReceived := 15#32, framesDecoded := 15#32 } } 0x10000001#32 0#32
     CoreInv s ∧ FitsWidths (smallCore refusingEngine) s ∧ ∃ t, stepAt (smallCore refusingEngine) s = .next t) := by
  refine ⟨⟨_, coreInv_pendingWord coreInv_inCodeword _ _, step_eq _⟩, ?_, ?_, ⟨_, rfl⟩⟩
  · exact ⟨by decide, by decide, by decide, by decide, by decide, by decide, fun _ => rfl, by decide, by decide,
      fun _ h => (by cases h)⟩
  · exact ⟨by decide, by decide, by decide, by decide, by decide, by decide⟩

/-- Two states whose buffers differ in bytes not yet written. -/
theorem witness_DeadBufferBytesAreUnobservable :
    let s' : State := { running with dec := { Decoder.reset with cw := Vector.replicate Config.cwSize 0xFF#8 } }
    CoreInv running ∧ SameButDeadBytes running s' ∧ bufRead running.dec.cw 0 ≠ bufRead s'.dec.cw 0 ∧
    ∃ t, step running = .next t :=
  ⟨coreInv_of_running_reset,
    ⟨rfl, fun _ k hk => absurd hk (Nat.not_lt_zero k), fun _ k hk => absurd hk (Nat.not_lt_zero k)⟩,
    by decide +kernel, ⟨_, step_eq _⟩⟩

/-- An engine that answers every block with itself and no error. -/
def echoEngine : RsEngine := ⟨fun x _ => some (0, x), fun _ _ => Vector.replicate Config.rsP 0x55#8⟩

/-- The core with both directions configured alike, at depth 1. -/
def looped (rs tail : Bool) : State :=
  { running with decCfg := { DecCfg.reset with rsEn := rs }, encCfg := { EncCfg.reset with rsEn := rs, tail := tail } }

theorem coreInv_looped (rs tail : Bool) : CoreInv (looped rs tail) :=
  ⟨by cases rs <;> cases tail <;> decide, by cases rs <;> cases tail <;> decide, fun _ => ⟨rfl, rfl⟩,
    (by decide : 0 < 2040), fun _ h => (by cases h), fun _ _ => ⟨(by decide : 0 < 1 * 223), rfl⟩, fun _ => rfl,
    fun h => (by cases h), fun h => (by cases h), fun _ h => (by cases h)⟩

/-- Normal mode and tail mode before its first frame (P5, P6), with RS off and on; an engine that meets the
hypothesis about it. -/
theorem witness_RoundTrip (rs tail : Bool) :
    CoreInv (looped rs tail) ∧
    (looped rs tail).encCfg.depth.toNat ≤ ({ thisCore with engine := echoEngine } : Params).pMaxI ∧ (looped rs tail).run = true ∧ (looped rs tail).encCfg.msgMode = false ∧
    (looped rs tail).enc.ecount = 0#16 ∧ (looped rs tail).dec.dstate = .syncSearch ∧ (looped rs tail).dec.sr = 0#32 ∧
    ((looped rs tail).encCfg.tail = true → (looped rs tail).enc.started = false) ∧
    SameProfile (looped rs tail).decCfg (looped rs tail).encCfg ∧
    NoEarlyLock (looped rs tail).syncWord (looped rs tail).decCfg.t ∧ (looped rs tail).decCfg.rsEn = rs ∧
    (looped rs tail).encCfg.rsEn = rs ∧ ({ thisCore with engine := echoEngine } : Params).engine.NoOpOnCodeword ∧
    (List.replicate 223 (0x55#8 : Byte)).length = (looped rs tail).encCfg.depth.toNat * 223 := by
  have hlock : NoEarlyLock Config.syncReset 0#6 := by unfold NoEarlyLock; decide +kernel
  exact ⟨coreInv_looped rs tail, (by decide : 1 ≤ 8), rfl, rfl, rfl, rfl, rfl, fun _ => rfl, ⟨rfl, rfl, rfl, rfl⟩, hlock, rfl, rfl,
    fun _ _ => rfl, List.length_replicate.trans (show 223 = 1 * 223 from rfl)⟩

/-! ### A code that corrects one byte error, for the witness about noise -/

/-- Data byte `j` counts in checksum `i`: in the last one always, in the others where its number has bit `i`. -/
def inChecksum (i j : Nat) : Bool := i == 8 || j.testBit i

/-- Checksum `i` of 223 data bytes. -/
def checksum (i : Nat) (d : Data223) : Byte :=
  ∑ j ∈ Finset.range 223, if inChecksum i j then bufRead d j else 0

/-- Three copies of the nine checksums. -/
def checksums (d : Data223) : Parity32 := Vector.ofFn fun k => if k.val < 27 then checksum (k.val % 9) d else 0#8

/-- The block of the data and their checksums. -/
def checkedBlock (d : Data223) : Block255 := encodedBlock ⟨fun _ _ => none, fun d _ => checksums d⟩ true false d

theorem bufRead_checkedBlock_data (d : Data223) {j : Nat} (hj : j < 223) :
    bufRead (checkedBlock d) j = bufRead d j := by
  rw [checkedBlock, bufRead_encodedBlock _ _ _ _ (by omega), if_pos hj]

theorem bufRead_checkedBlock_checksum (d : Data223) {c i : Nat} (hc : c < 3) (hi : i < 9) :
    bufRead (checkedBlock d) (223 + 9 * c + i) = checksum i d := by
  rw [checkedBlock, bufRead_encodedBlock _ _ _ _ (by omega), if_neg (by omega)]
  show bufRead (checksums d) _ = _
  have h : 223 + 9 * c + i - 223 = 9 * c + i := by omega
  rw [h, checksums, bufRead_ofFn _ (show 9 * c + i < 32 by omega)]
  show (if 9 * c + i < 27 then checksum ((9 * c + i) % 9) d else 0#8) = _
  rw [if_pos (by omega), Nat.mul_add_mod, Nat.mod_eq_of_lt hi]

/-- Blocks that differ in at most one place agree but in one. -/
theorem agree_of_diffCount_le_one {x y : Block255} (h : diffCount x y ≤ 1) :
    ∃ a, ∀ k < 255, k ≠ a → bufRead x k = bufRead y k := by
  by_contra hn
  push Not at hn
  obtain ⟨a, ha, -, hda⟩ := hn 255
  obtain ⟨b, hb, hab, hdb⟩ := hn a
  have hs : [a, b].Subperm ((List.range 255).filter fun j => bufRead x j != bufRead y j) := by
    refine List.subperm_of_subset (by simp [Ne.symm hab]) ?_
    intro k hk
    simp only [List.mem_cons, List.not_mem_nil, or_false] at hk
    rcases hk with rfl | rfl <;> simp [*]
  have hl := hs.length_le
  rw [← List.countP_eq_length_filter] at hl
  exact absurd (Nat.le_trans hl h) (Nat.lt_irrefl 1)

/-- A sum over the data bytes in which at most the terms `a` and `b` are not 0. -/
theorem sum_two (f : Nat → Byte) {a b : Nat} (ha : a < 223) (h : ∀ j < 223, j ≠ a → j ≠ b → f j = 0) :
    ∑ j ∈ Finset.range 223, f j = f a + if b ≠ a ∧ b < 223 then f b else 0 := by
  by_cases hb : b ≠ a ∧ b < 223
  · rw [if_pos hb]
    exact Finset.sum_eq_add a b (Ne.symm hb.1) (fun j hj hn => h j (Finset.mem_range.mp hj) hn.1 hn.2)
      (fun hn => absurd (Finset.mem_range.mpr ha) hn) (fun hn => absurd (Finset.mem_range.mpr hb.2) hn)
  · rw [if_neg hb, add_zero]
    refine Finset.sum_eq_single a (fun j hj hn => h j (Finset.mem_range.mp hj) hn ?_)
      (fun hn => absurd (Finset.mem_range.mpr ha) hn)
    rintro rfl
    exact hb ⟨hn, Finset.mem_range.mp hj⟩

/-- Data whose nine checksums agree and that agree but in two places are the same. -/
theorem data_eq_of_checksums {d d' : Data223} {a b : Nat}
    (h : ∀ j < 223, j ≠ a → j ≠ b → bufRead d j = bufRead d' j) (hs : ∀ i < 9, checksum i d = checksum i d')
    (ha : a < 223) : bufRead d a = bufRead d' a := by
  have key : ∀ i < 9, (if inChecksum i a then bufRead d a - bufRead d' a else 0) +
      (if b ≠ a ∧ b < 223 then (if inChecksum i b then bufRead d b - bufRead d' b else 0) else 0) = 0 := by
    intro i hi
    rw [← sum_two (fun j => if inChecksum i j then bufRead d j - bufRead d' j else 0) ha]
    · have := sub_eq_zero.mpr (hs i hi)
      rw [checksum, checksum, ← Finset.sum_sub_distrib] at this
      refine Eq.trans (Finset.sum_congr rfl fun j _ => ?_) this
      split <;> simp
    · intro j hj hja hjb
      simp [h j hj hja hjb]
  have h8 := key 8 (by decide)
  have ht : ∀ j, inChecksum 8 j = true := fun j => rfl
  simp only [ht, if_true] at h8
  by_cases hb : b ≠ a ∧ b < 223
  · obtain ⟨i, hi⟩ : ∃ i, a.testBit i ≠ b.testBit i := by
      by_contra hn
      push Not at hn
      exact hb.1 (Nat.eq_of_testBit_eq hn).symm
    have hi8 : i < 8 := by
      by_contra hn
      have h2 : 2 ^ 8 ≤ 2 ^ i := Nat.pow_le_pow_right (by decide) (by omega)
      rw [Nat.testBit_lt_two_pow (show a < 2 ^ i by omega), Nat.testBit_lt_two_pow (show b < 2 ^ i by omega)] at hi
      exact hi rfl
    have hk := key i (by omega)
    have hc : ∀ j, inChecksum i j = j.testBit i := fun j => by
      have : (i == 8) = false := by simp; omega
      simp [inChecksum, this]
    rw [hc, hc] at hk
    simp only [if_pos hb] at h8 hk
    cases hta : a.testBit i <;> cases htb : b.testBit i <;> simp [hta, htb] at hi hk
    · rw [hk] at h8; exact sub_eq_zero.mp ((add_zero _).symm.trans h8)
    · exact sub_eq_zero.mp hk
  · rw [if_neg hb, add_zero] at h8
    exact sub_eq_zero.mp h8

/-- The code tells any two data apart from a block one error away from both. -/
theorem checkedBlock_unique {x : Block255} {d d' : Data223} (h : diffCount x (checkedBlock d) ≤ 1)
    (h' : diffCount x (checkedBlock d') ≤ 1) : d = d' := by
  obtain ⟨a, ha⟩ := agree_of_diffCount_le_one h
  obtain ⟨b, hb⟩ := agree_of_diffCount_le_one h'
  have hab : ∀ k < 255, k ≠ a → k ≠ b → bufRead (checkedBlock d) k = bufRead (checkedBlock d') k :=
    fun k hk hka hkb => (ha k hk hka).symm.trans (hb k hk hkb)
  obtain ⟨c, hc, hca, hcb⟩ : ∃ c < 3, (∀ i < 9, 223 + 9 * c + i ≠ a) ∧ ∀ i < 9, 223 + 9 * c + i ≠ b := by
    by_cases h0 : (∃ i < 9, 223 + i = a) ∨ ∃ i < 9, 223 + i = b
    · by_cases h1 : (∃ i < 9, 232 + i = a) ∨ ∃ i < 9, 232 + i = b
      · refine ⟨2, by decide, ?_, ?_⟩ <;> intro i hi <;>
          rcases h0 with ⟨k, hk, rfl⟩ | ⟨k, hk, rfl⟩ <;> rcases h1 with ⟨l, hl, hl'⟩ | ⟨l, hl, hl'⟩ <;> omega
      · push Not at h1
        exact ⟨1, by decide, fun i hi => by have := h1.1 i hi; omega, fun i hi => by have := h1.2 i hi; omega⟩
    · push Not at h0
      exact ⟨0, by decide, fun i hi => by have := h0.1 i hi; omega, fun i hi => by have := h0.2 i hi; omega⟩
  have hs : ∀ i < 9, checksum i d = checksum i d' := by
    intro i hi
    rw [← bufRead_checkedBlock_checksum d hc hi, ← bufRead_checkedBlock_checksum d' hc hi]
    exact hab _ (by omega) (hca i hi) (hcb i hi)
  have hd : ∀ j < 223, j ≠ a → j ≠ b → bufRead d j = bufRead d' j := by
    intro j hj hja hjb
    rw [← bufRead_checkedBlock_data d hj, ← bufRead_checkedBlock_data d' hj]
    exact hab j (by omega) hja hjb
  apply buf_ext
  intro j hj
  by_cases hja : j = a
  · subst hja; exact data_eq_of_checksums hd hs hj
  · by_cases hjb : j = b
    · subst hjb
      exact data_eq_of_checksums (b := a) (fun k hk hkb hka => hd k hk hka hkb) hs hj
    · exact hd j hj hja hjb

/-- Some engine with these checksums corrects one error in every block. -/
theorem exists_engine_corrects_one :
    ∃ e : RsEngine, e.Corrects 1 ∧ ∀ d f, encodedBlock e true f d = checkedBlock d := by
  have hx : ∀ x : Block255, ∃ r : Option (Nat × Block255), ∀ d, diffCount x (checkedBlock d) ≤ 1 →
      r = some (diffCount x (checkedBlock d), checkedBlock d) := by
    intro x
    rcases Classical.em (∃ d, diffCount x (checkedBlock d) ≤ 1) with ⟨d, hd⟩ | h
    · exact ⟨_, fun d' hd' => by rw [checkedBlock_unique hd' hd]⟩
    · exact ⟨none, fun d hd => absurd ⟨d, hd⟩ h⟩
  choose answer hanswer using hx
  exact ⟨⟨fun x _ => answer x, fun d _ => checksums d⟩, fun d _ x h => hanswer x d h, fun _ _ => rfl⟩

/-- RS decoding on, and a codeword of depth 1 received: the block `x`. -/
def received (x : Block255) : State :=
  { running with
    decCfg := { DecCfg.reset with rsEn := true }
    dec := { Decoder.reset with cw := Vector.ofFn fun k => bufRead x k } }

theorem receivedBlock_received (C : Cover) (x : Block255) : receivedBlock C (received x) 0 = x := by
  apply buf_ext
  intro j hj
  have hj : j < 255 := hj
  rw [receivedBlock, bufRead_ofFn _ hj]
  show bufRead (Vector.ofFn fun k : Fin Config.cwSize => bufRead x k) (0 * 255 + j) = bufRead x j
  rw [bufRead_ofFn _ (show 0 * 255 + j < 2040 by omega)]
  show bufRead x (0 * 255 + j) = _
  rw [Nat.zero_mul, Nat.zero_add]

/-- The bytes of a payload of depth 1 are the data of its only sub-block. -/
theorem sentData_toList (d : Data223) : sentData EncCfg.reset d.toList 0 = d := by
  apply buf_ext
  intro j hj
  rw [sentData, bufRead_ofFn _ hj]
  show d.toList.getD (0 * 223 + j) 0#8 = bufRead d j
  rw [Nat.zero_mul, Nat.zero_add, List.getD_eq_getElem?_getD, bufRead]
  simp

theorem diffCount_bufWrite {x : Block255} {a : Nat} {v : Byte} (ha : a < 255) (hv : v ≠ bufRead x a) :
    diffCount (bufWrite x a v) x = 1 := by
  have h : ∀ k ∈ List.range 255, (bufRead (bufWrite x a v) k != bufRead x k) = (k == a) := by
    intro k hk
    have hk : k < 255 := List.mem_range.mp hk
    rw [bufRead_bufWrite]
    by_cases hka : a = k
    · subst hka; simp [hk, hv]
    · simp [hka, Ne.symm hka]
  show (List.range 255).countP (fun k => bufRead (bufWrite x a v) k != bufRead x k) = 1
  rw [List.countP_congr (q := fun k => k == a) fun k hk => by rw [h k hk]]
  exact List.count_eq_one_of_mem List.nodup_range (List.mem_range.mpr ha)

/-- One wrong byte, a data byte or a parity byte, and an engine that corrects one. -/
theorem witness_NoiseToleratedUpToTheEnginesLimit (a : Nat) (ha : a < 255) :
    ∃ (P : Params) (s : State) (c : EncCfg) (p : List Byte), P.engine.Corrects 1 ∧
      1 ≤ s.decCfg.depth.toNat ∧ s.decCfg.depth.toNat ≤ 8 ∧ s.decCfg.rsEn = true ∧ SameProfile s.decCfg c ∧
      p.length = c.depth.toNat * 223 ∧
      (∀ i < c.depth.toNat,
        diffCount (receivedBlock P.cover s i) (encodedBlock P.engine true c.dual (sentData c p i)) ≤ 1) ∧
      diffCount (receivedBlock P.cover s 0) (encodedBlock P.engine true c.dual (sentData c p 0)) = 1 ∧
      p[0]? = some 0x55#8 := by
  obtain ⟨e, he, hblk⟩ := exists_engine_corrects_one
  let d : Data223 := Vector.replicate 223 0x55#8
  refine ⟨{ thisCore with engine := e },
    received (bufWrite (checkedBlock d) a (bufRead (checkedBlock d) a + 1)), EncCfg.reset, d.toList, he, Nat.le_refl 1,
    show 1 ≤ 8 by decide, rfl, ⟨rfl, rfl, rfl, rfl⟩, by simp [d, EncCfg.reset], ?_, ?_, by simp [d]⟩
  · intro i hi
    have hi0 : i = 0 := by have : i < 1 := hi; omega
    subst hi0
    rw [receivedBlock_received, hblk, sentData_toList]
    exact Nat.le_of_eq (diffCount_bufWrite ha (by simp))
  · rw [receivedBlock_received, hblk, sentData_toList]
    exact diffCount_bufWrite ha (by simp)

end Tests

end Sys2Proof
end

section
/-! SUPPORT. The control and status registers seen through the commands CSRR and CSRW: the state each answers,
the words read at reset, and the reserved bits of every word read (spec/10_state.md R57 to R73, R80). -/

namespace Sys2Proof

namespace Machine

/-! ### The two register commands (R401, R402) -/

theorem exec_csrr (a : BitVec 8) (s : State) :
    exec (.csrr a) s = .next { s with rdata := csrRead thisCore a s } := rfl

/-- A read of an assigned register answers the register's value. -/
theorem exec_csrr_of_csrAt {a : BitVec 8} {r : Csr} (h : csrAt a = some r) (s : State) :
    exec (.csrr a) s = .next { s with rdata := readCsr thisCore r s } := by
  rw [exec_csrr, csrRead, h]

theorem exec_csrw (a : BitVec 8) (v : Word) (s : State) :
    exec (.csrw a v) s = .next { csrWrite thisCore a v s with rdata := 0#32 } := rfl

theorem thisCore_pMaxI : thisCore.pMaxI = 8 := rfl

/-! ### Words read -/

theorem DState.bit_eq_true_iff (d : DState) : d.bit = true ↔ d = .codeword := by
  cases d <;> simp [DState.bit]

/-- A number in a field at the low end of a register, the bits above it 0. -/
theorem zero_append_eq_ofNat {m n : Nat} (x : BitVec n) : 0#m ++ x = BitVec.ofNat (m + n) x.toNat := by
  apply BitVec.eq_of_toNat_eq
  have hx : x.toNat < 2 ^ (m + n) := Nat.lt_of_lt_of_le x.isLt (Nat.pow_le_pow_right (by decide) (by omega))
  rw [BitVec.toNat_append, BitVec.toNat_ofNat, BitVec.toNat_ofNat, Nat.mod_eq_of_lt hx]
  simp

/-- PARAMS reads `P_MAX_I`, which fits its four bits (R8, R70). -/
theorem readCsr_params (P : Params) (s : State) : readCsr P .params s = BitVec.ofNat 32 P.pMaxI := by
  have hP : P.pMaxI ≤ 8 := P.pMaxI_legal.2
  have hfit : (BitVec.ofNat 4 P.pMaxI).toNat = P.pMaxI := by
    rw [BitVec.toNat_ofNat]; exact Nat.mod_eq_of_lt (by omega)
  exact (zero_append_eq_ofNat _).trans (congrArg (BitVec.ofNat 32) hfit)

/-- The registers 0x05 to 0x0D show state that is 0 after reset (R80). -/
theorem csrRead_reset_of_readOnly {a : BitVec 8} (h : 0x05 ≤ a.toNat) (h' : a.toNat ≤ 0x0D) :
    csrRead thisCore a State.reset = 0#32 := by
  obtain ⟨n, hn, rfl⟩ : ∃ n, a.toNat = n ∧ a = BitVec.ofNat 8 n := ⟨a.toNat, rfl, by simp⟩
  rw [hn] at h h'
  interval_cases n <;> rfl

/-! ### Reserved bits (R73) -/

/-- The word whose ones are the `n` bits from bit `i` up. -/
def fieldMask (i n : Nat) : Word := (BitVec.allOnes n).setWidth 32 <<< i

/-- A field that reads 0 has no bit in its mask. -/
theorem and_fieldMask {w : Word} {i n : Nat} (h : w.extractLsb' i n = 0#n) : w &&& fieldMask i n = 0#32 := by
  apply BitVec.eq_of_getLsbD_eq
  intro k hk
  by_cases hin : i ≤ k ∧ k - i < n
  · obtain ⟨hi, hn⟩ := hin
    have hfield : (w.extractLsb' i n).getLsbD (k - i) = false := by rw [h]; simp
    have hbit : w.getLsbD k = false := by
      simpa [BitVec.getLsbD_extractLsb', hn, Nat.add_sub_cancel' hi] using hfield
    simp [hbit]
  · simp [fieldMask]; omega

theorem and_or_eq_zero {w m m' : Word} (h : w &&& m = 0#32) (h' : w &&& m' = 0#32) : w &&& (m ||| m') = 0#32 := by
  rw [BitVec.and_or_distrib_left, h, h', BitVec.or_zero]

/-- Bits 11..10 and 31..16 of DEC_CFG (R58). -/
theorem DecCfg.word_reserved (c : DecCfg) :
    c.word.extractLsb' 10 2 = 0#2 ∧ c.word.extractLsb' 16 16 = 0#16 := by
  unfold DecCfg.word
  constructor
  · iterate 5 refine (BitVec.extractLsb'_append_eq_of_le (by decide)).trans ?_
    exact BitVec.extractLsb'_append_eq_right
  · iterate 7 refine (BitVec.extractLsb'_append_eq_of_le (by decide)).trans ?_
    exact BitVec.extractLsb'_eq_self

/-- Bits 11..7 of ENC_CFG (R60). -/
theorem EncCfg.word_reserved (c : EncCfg) : c.word.extractLsb' 7 5 = 0#5 := by
  unfold EncCfg.word
  iterate 7 refine (BitVec.extractLsb'_append_eq_of_le (by decide)).trans ?_
  exact BitVec.extractLsb'_append_eq_right

/-- Bit 7 of STATUS as a field of its own (R63). -/
theorem statusWord_reserved_bit (s : State) : (statusWord s).extractLsb' 7 1 = 0#1 := by
  unfold statusWord
  iterate 7 refine (BitVec.extractLsb'_append_eq_of_le (by decide)).trans ?_
  exact BitVec.extractLsb'_append_eq_right

/-! ### The configuration registers as written (R59, R61) -/

/-- The rule R59 and R61 share, for a write that would give `t`: kept out while RUN = 1 and for an illegal
depth `d`. -/
theorem respond_lockedWrite (P : Params) (s t : State) (d : BitVec 4) :
    respond 0#32 (if s.run then raise .configRejected s
      else if legalDepth P d then t else raise .configRejected s) =
    if s.run = false ∧ 1 ≤ d.toNat ∧ d.toNat ≤ P.pMaxI then respond 0#32 t else configRejected s := by
  simp only [← legalDepth_iff]
  cases s.run <;> cases legalDepth P d <;> rfl

/-- A write to DEC_CFG is stored while RUN = 0 if its depth is legal, and rejected otherwise (R59). -/
theorem effectAt_csrw_decCfg (P : Params) (s : State) (v : Word) :
    effectAt P (.csrw 0x01#8 v) s =
      if s.run = false ∧ 1 ≤ (v.extractLsb' 12 4).toNat ∧ (v.extractLsb' 12 4).toNat ≤ P.pMaxI
        then { s with decCfg := DecCfg.ofWord v, rdata := 0#32 } else configRejected s :=
  respond_lockedWrite P s (s.withDecCfg (DecCfg.ofWord v)) (v.extractLsb' 12 4)

/-- A write to ENC_CFG is stored while RUN = 0 if its depth is legal, and rejected otherwise (R61). -/
theorem effectAt_csrw_encCfg (P : Params) (s : State) (v : Word) :
    effectAt P (.csrw 0x02#8 v) s =
      if s.run = false ∧ 1 ≤ (v.extractLsb' 12 4).toNat ∧ (v.extractLsb' 12 4).toNat ≤ P.pMaxI
        then { s with encCfg := EncCfg.ofWord v, rdata := 0#32 } else configRejected s :=
  respond_lockedWrite P s (s.withEncCfg (EncCfg.ofWord v)) (v.extractLsb' 12 4)

end Machine

end Sys2Proof
end

section
/-! SUPPORT. The statements about the state elements and their registers, settled. -/

namespace Sys2Proof

open Machine

/-- Settles O10: every element is read off `State.reset`, and the two configuration words are read by CSRR. -/
theorem resetValues : Obligations.ResetValues := by
  unfold Obligations.ResetValues
  refine ⟨rfl, rfl, ?decCfgRead, rfl, ?encCfgRead, ?elements⟩
  case decCfgRead => exact exec_csrr_of_csrAt (r := .decCfg) rfl State.reset
  case encCfgRead => exact exec_csrr_of_csrAt (r := .encCfg) rfl State.reset
  case elements =>
    refine ⟨rfl, rfl, rfl, rfl, rfl, rfl, rfl, rfl, rfl, rfl, rfl, rfl, rfl, rfl, rfl, fun _ => rfl, ?_⟩
    intro P s
    rw [hardwareReset_eq]
    exact ⟨rfl, rfl, rfl⟩

/-- Settles O14, by the read value of each register and the one write law of the read-only ones. -/
theorem readOnlyRegisters : Obligations.ReadOnlyRegisters := by
  unfold Obligations.ReadOnlyRegisters
  refine ⟨fun s => ⟨decPosWord s, exec_csrr_of_csrAt (r := .decPos) rfl s, decPosWord_fields s⟩,
    exec_csrr_of_csrAt (r := .shiftReg) rfl, exec_csrr_of_csrAt (r := .lastCorr) rfl,
    exec_csrr_of_csrAt (r := .framesRx) rfl, exec_csrr_of_csrAt (r := .framesDec) rfl,
    exec_csrr_of_csrAt (r := .subframesDec) rfl, exec_csrr_of_csrAt (r := .fillDec) rfl,
    exec_csrr_of_csrAt (r := .framesTx) rfl, ?encCount, exec_csrr_of_csrAt (r := .params) rfl, ?params,
    ?written, ?atReset⟩
  case encCount =>
    intro s
    rw [exec_csrr_of_csrAt (r := .encCount) rfl s, readCsr, zero_append_eq_ofNat]; rfl
  case params =>
    intro P s
    rw [← readCsr_params P s]; rfl
  case written =>
    intro s a v h h'
    rw [exec_csrw, csrWrite_readOnly thisCore s h h' v]
  case atReset =>
    intro a h h'
    rw [exec_csrr, csrRead_reset_of_readOnly h h']

/-- Settles O15, by the read and the write law of a reserved address. -/
theorem reservedAddressesAreInert : Obligations.ReservedAddressesAreInert := by
  unfold Obligations.ReservedAddressesAreInert
  intro s a v h
  rw [exec_csrr, exec_csrw, csrRead_reserved thisCore s h, csrWrite_reserved thisCore s h v]
  exact ⟨rfl, rfl⟩

/-- Settles O16: each mask is made of the masks of its register's reserved fields, highest field first, and each
of these fields reads 0. -/
theorem reservedBitsReadZero : Obligations.ReservedBitsReadZero := by
  unfold Obligations.ReservedBitsReadZero
  intro s row hrow
  refine ⟨_, exec_csrr row.1 s, ?_⟩
  show csrRead thisCore row.1 s &&& row.2 = 0#32
  obtain ⟨hdec, hdec'⟩ := s.decCfg.word_reserved
  obtain ⟨hstatus, -, hstatus'⟩ := statusWord_fields s
  obtain ⟨-, hpos, -, hpos'⟩ := decPosWord_fields s
  simp only [List.mem_cons, List.not_mem_nil, or_false] at hrow
  rcases hrow with rfl | rfl | rfl | rfl | rfl | rfl | rfl
  · exact and_fieldMask (w := ctrlWord s) (i := 1) (n := 31) BitVec.extractLsb'_append_eq_left
  · exact and_or_eq_zero (and_fieldMask hdec') (and_fieldMask hdec)
  · exact and_fieldMask s.encCfg.word_reserved
  · exact and_or_eq_zero (and_fieldMask hstatus')
      (and_or_eq_zero (and_fieldMask hstatus) (and_fieldMask (statusWord_reserved_bit s)))
  · exact and_or_eq_zero (and_fieldMask hpos') (and_fieldMask hpos)
  · exact and_fieldMask (w := 0#16 ++ s.enc.ecount) (i := 16) (n := 16) BitVec.extractLsb'_append_eq_left
  · exact and_fieldMask (w := 0#28 ++ BitVec.ofNat 4 8) (i := 4) (n := 28) BitVec.extractLsb'_append_eq_left

/-- Settles O18, by the one equation of a write to DEC_CFG. -/
theorem decCfgRegister : Obligations.DecCfgRegister := by
  unfold Obligations.DecCfgRegister
  intro s v
  simp only [exec_eq, effectAt_csrw_decCfg]
  refine ⟨fun hrun => ?running, fun _ hdepth => ?illegal, fun hrun hlow hhigh => ?stored, fun P hrun => ?anyP⟩
  case running => rw [if_neg (by simp [hrun])]
  case illegal => rw [if_neg (by rw [thisCore_pMaxI]; omega)]
  case stored =>
    rw [if_pos ⟨hrun, hlow, hhigh⟩]
    refine ⟨_, rfl, rfl, ?_⟩
    rw [← DecCfg.word_ofWord]; rfl
  case anyP => simp [hrun]

/-- Settles O19, by the one equation of a write to ENC_CFG. -/
theorem encCfgRegister : Obligations.EncCfgRegister := by
  unfold Obligations.EncCfgRegister
  intro s v
  simp only [exec_eq, effectAt_csrw_encCfg]
  refine ⟨fun hrun => ?running, fun _ hdepth => ?illegal, fun hrun hlow hhigh => ?stored, fun P hrun => ?anyP⟩
  case running => rw [if_neg (by simp [hrun])]
  case illegal => rw [if_neg (by rw [thisCore_pMaxI]; omega)]
  case stored =>
    rw [if_pos ⟨hrun, hlow, hhigh⟩]
    refine ⟨_, rfl, rfl, ?_⟩
    rw [← EncCfg.word_ofWord]; rfl
  case anyP => simp [hrun]

/-- Settles O21, by the bits and fields of the word read and the clearing of the sticky bits. -/
theorem statusRegister : Obligations.StatusRegister := by
  unfold Obligations.StatusRegister
  refine ⟨fun s => ⟨statusWord s, exec_csrr_of_csrAt (r := .status) rfl s, ?fields⟩, ?atReset, ?written⟩
  case fields =>
    obtain ⟨hstate, hbits⟩ := statusWord_bits s
    rw [hstate, DState.bit_eq_true_iff]
    simpa only [hbits, true_and, and_assoc, iff_self] using statusWord_fields s
  case atReset => exact exec_csrr_of_csrAt (r := .status) rfl State.reset
  case written =>
    intro s v
    rw [exec_csrw]; rfl

end Sys2Proof
end

section
/-! SUPPORT. The statements about register reads, settled (spec/20_memory.md R103). -/

namespace Sys2Proof

open Machine

/-- Settles O13: a read stores its word in the response alone, and no register shows the response, so the second
read finds the same word. -/
theorem registerReadsHaveNoSideEffect : Obligations.RegisterReadsHaveNoSideEffect := by
  unfold Obligations.RegisterReadsHaveNoSideEffect
  intro s a
  refine ⟨s.withRdata (csrRead thisCore a s), exec_csrr a s, rfl, ?idempotent⟩
  case idempotent =>
    rw [exec_csrr, csrRead_withRdata]; rfl

end Sys2Proof
end

section
/-! SUPPORT. What the decoder reads, in each direction and for every row of the command table
(spec/30_encoding.md R137 to R139), and the step on one transaction (R144, R145). -/

namespace Sys2Proof

/-- A command carries the operands of its own row. -/
theorem operands_of_decode {cmd wdata : Word} {i : Instr} (h : decode cmd wdata = .ok i) :
    i.opcode.operands cmd wdata = i := by
  obtain ⟨op, -, rfl⟩ := decode_eq_ok_iff.mp h
  rw [Opcode.operands_opcode]

theorem decode_of_match {op : Opcode} {cmd : Word} (h : cmd &&& op.maskWord = op.matchWord) (wdata : Word) :
    decode cmd wdata = .ok (op.operands cmd wdata) :=
  decode_eq_ok_iff.mpr ⟨op, h, rfl⟩

/-- A word selects the command of a row iff it matches the row (R137). -/
theorem exists_decode_opcode_iff {op : Opcode} {cmd wdata : Word} :
    (∃ i, decode cmd wdata = .ok i ∧ i.opcode = op) ↔ cmd &&& op.maskWord = op.matchWord := by
  constructor
  · rintro ⟨i, hi, rfl⟩
    obtain ⟨op, hmatch, rfl⟩ := decode_eq_ok_iff.mp hi
    rwa [Opcode.operands_opcode]
  · exact fun hmatch => ⟨_, decode_of_match hmatch wdata, Opcode.operands_opcode ..⟩

/-- `OP` from 0xA up is reserved (R139). -/
theorem decode_of_reserved_op {cmd : Word} (h : 10 ≤ (cmd.extractLsb' 28 4).toNat) (wdata : Word) :
    decode cmd wdata = .error .reservedOp := by
  have hnone : ∀ f : BitVec 4, 10 ≤ f.toNat → Opcode.ofField f = none := by decide
  rw [decode, hnone _ h]

/-- A word with the `OP` of a row that does not match the row has a must-be-zero bit set (R138). -/
theorem decode_of_mismatch {op : Opcode} {cmd : Word}
    (hop : op.matchWord.extractLsb' 28 4 = cmd.extractLsb' 28 4) (h : cmd &&& op.maskWord ≠ op.matchWord)
    (wdata : Word) : decode cmd wdata = .error .mustBeZero := by
  rw [decode, Opcode.ofField_eq_some.mpr hop.symm]
  exact if_neg h

namespace Machine

/-- The match and the mask of the table are those the decoder uses (R137). -/
theorem eq_of_mem_commandRows : ∀ row ∈ commandRows, row = (row.1, row.1.matchWord, row.1.maskWord) := by decide

/-- A legal transaction is its command's execution (R144). -/
theorem step_of_decode_ok {s : State} {cmd wdata : Word} {rest : List HostInput} {i : Instr}
    (hport : s.port = .command cmd wdata :: rest) (h : decode cmd wdata = .ok i) :
    step s = exec i { s with port := rest } := by
  rw [step_eq, stepTo, hport, exec_eq]
  simp only [transactTo, h]; rfl

/-- An illegal transaction is turned away (R144). -/
theorem step_of_decode_error {s : State} {cmd wdata : Word} {rest : List HostInput} {x : DecodeError}
    (hport : s.port = .command cmd wdata :: rest) (h : decode cmd wdata = .error x) :
    step s = .next (turnedAway { s with port := rest }) := by
  rw [step_eq, stepTo, hport]
  simp only [transactTo, h]; rfl

/-- A data command while RUN = 0 is an illegal command (R145). -/
theorem effectAt_data_of_stopped (P : Params) {i : Instr} {s : State} (hi : isData i = true)
    (h : s.run = false) : effectAt P i s = illegalCommand s := by
  have hstopped : ∀ effect, dataCommand effect s = illegalCommand s := fun effect => dataCommand_of_stopped s effect h
  cases i with
  | dbit | dbatch | ebyte | emsg | einvoke =>
    simp only [effectAt, dbitEffect, dbatchEffect, ebyteEffect, emsgEffect, einvokeEffect, hstopped]
  | nop | csrr | csrw | cntclr | reinit => cases hi

end Machine

end Sys2Proof
end

section
/-! SUPPORT. A batch and the bits it feeds (spec/30_encoding.md R133, spec/40_bit_synchronizer.md R202): the
response steers no bit, so the responses of the single bits are lost but the last. -/

namespace Sys2Proof

namespace Machine

variable (P : Params) (s : State)

theorem decodeFrame_respond (v : Word) : decodeFrame P (respond v s) = respond v (decodeFrame P s) := by
  simp only [decodeFrame_eq, concludeAttempt_eq]; rfl

/-- A bit neither reads nor writes the response. -/
theorem bitStep_respond (v : Word) (b : Bool) : bitStep P (respond v s) b = respond v (bitStep P s b) := by
  cases hd : s.dec.dstate with
  | syncSearch =>
    rw [bitStep_of_syncSearch P s b hd, bitStep_of_syncSearch P (respond v s) b hd, searchBit, searchBit,
      apply_ite (respond v)]
    rfl
  | codeword =>
    rw [bitStep_of_codeword P s b hd, bitStep_of_codeword P (respond v s) b hd]
    simp only [codewordBit, apply_ite (respond v)]
    rw [show storeByte (shifted (respond v s) b) = respond v (storeByte (shifted s b)) from rfl,
      decodeFrame_respond]
    rfl

variable {s}

/-- DBIT while running: the bit, then the response (R201). -/
theorem effectAt_dbit_of_run (b : Bool) (h : s.run = true) :
    effectAt P (.dbit b) s = respond 0#32 (bitStep P s b) := by
  rw [effectAt, dbitEffect, dataCommand_of_run s _ h]

/-- DBITs after a first response, while running: the bits, with the same response again. -/
theorem applyAll_dbits_of_run (bs : List Bool) (h : s.run = true) :
    applyAll P (bs.map .dbit) (respond 0#32 s) = respond 0#32 (bitSteps P s bs) := by
  induction bs generalizing s with
  | nil => rfl
  | cons b bs ih =>
    have hrun : (bitStep P s b).run = true := (bitStep_frame P s b).run.trans h
    calc applyAll P (bs.map .dbit) (effectAt P (.dbit b) (respond 0#32 s))
      _ = applyAll P (bs.map .dbit) (respond 0#32 (bitStep P s b)) := by
        rw [effectAt_dbit_of_run P b (s := respond 0#32 s) h, bitStep_respond]; rfl
      _ = respond 0#32 (bitSteps P (bitStep P s b) bs) := ih hrun

/-- DBITs after one that was turned away, while RUN = 0: each is turned away and nothing more changes (R145). -/
theorem applyAll_dbits_of_stopped (bs : List Bool) (h : s.run = false) :
    applyAll P (bs.map .dbit) (illegalCommand s) = illegalCommand s := by
  induction bs with
  | nil => rfl
  | cons b bs ih =>
    have hbit : effectAt P (.dbit b) (illegalCommand s) = illegalCommand s :=
      effectAt_data_of_stopped P (s := illegalCommand s) rfl h
    exact (congrArg (applyAll P (bs.map .dbit)) hbit).trans ih

variable (s)

/-- At least one DBIT: the bits in order as one data command, whatever RUN is. -/
theorem applyAll_dbits {bs : List Bool} (hbs : bs ≠ []) :
    applyAll P (bs.map .dbit) s = dataCommand (fun s => respond 0#32 (bitSteps P s bs)) s := by
  obtain ⟨b, bs, rfl⟩ := List.exists_cons_of_ne_nil hbs
  change applyAll P (bs.map .dbit) (effectAt P (.dbit b) s) = _
  cases hrun : s.run with
  | true =>
    rw [effectAt_dbit_of_run P b hrun, dataCommand_of_run s _ hrun]
    exact applyAll_dbits_of_run P bs ((bitStep_frame P s b).run.trans hrun)
  | false =>
    rw [effectAt_data_of_stopped P rfl hrun, dataCommand_of_stopped s _ hrun]
    exact applyAll_dbits_of_stopped P bs hrun

/-- A batch is the DBITs of its bits (R202). -/
theorem effectAt_dbatch {n : Nat} (hn : 1 ≤ n) (d : BitVec 16) :
    effectAt P (.dbatch n d) s = applyAll P ((batchBits n d).map .dbit) s := by
  have hbits : batchBits n d ≠ [] := by
    rw [← List.length_pos_iff, batchBits, List.length_map, List.length_range]; exact hn
  rw [applyAll_dbits P s hbits]; rfl

/-- The bits from `n` up are not fed (R133). -/
theorem batchBits_congr {n : Nat} {d d' : BitVec 16} (h : ∀ k < n, d.getLsbD k = d'.getLsbD k) :
    batchBits n d = batchBits n d' := by
  refine List.map_congr_left fun k hk => h _ ?_
  have hkn := List.mem_range.mp hk
  omega

end Machine

end Sys2Proof
end

section
/-! SUPPORT. The statements about the command encoding, settled (spec/30_encoding.md). -/

namespace Sys2Proof

open Machine

/-- Settles O3: each operand is read off the operands of the command's own row. -/
theorem operandsAreTheirFields : Obligations.OperandsAreTheirFields := by
  unfold Obligations.OperandsAreTheirFields
  intro cmd wdata i h
  have hop := operands_of_decode h
  refine ⟨?dbit, ?dbatch, ?ebyte, ?csrr, ?csrw⟩
  case dbit => rintro b rfl; exact (Instr.dbit.inj hop).symm
  case dbatch => rintro n d rfl; exact (Instr.dbatch.inj hop).imp Eq.symm Eq.symm
  case ebyte => rintro b rfl; exact (Instr.ebyte.inj hop).symm
  case csrr => rintro a rfl; exact (Instr.csrr.inj hop).symm
  case csrw => rintro a v rfl; exact (Instr.csrw.inj hop).imp Eq.symm Eq.symm

/-- Settles O2, by the decoder's own reading of a row and the disjointness of its rows. -/
theorem wordSelectsItsRow : Obligations.WordSelectsItsRow := by
  unfold Obligations.WordSelectsItsRow
  constructor
  · intro row hrow cmd wdata
    rw [eq_of_mem_commandRows row hrow]
    exact exists_decode_opcode_iff
  · intro row hrow row' hrow' cmd h h'
    rw [eq_of_mem_commandRows row hrow] at h ⊢
    rw [eq_of_mem_commandRows row' hrow'] at h' ⊢
    rw [Opcode.match_unique h h']

/-- Settles O6: the decoder's answer on the word decides, and RUN does for a data command. -/
theorem dispatchOfOneTransaction : Obligations.DispatchOfOneTransaction := by
  unfold Obligations.DispatchOfOneTransaction
  intro s cmd wdata rest hport
  refine ⟨?reserved, ?mismatch, ?legal⟩
  case reserved => exact fun hop => step_of_decode_error hport (decode_of_reserved_op hop wdata)
  case mismatch =>
    intro row hrow hop hne
    rw [eq_of_mem_commandRows row hrow] at hop hne
    exact step_of_decode_error hport (decode_of_mismatch hop hne wdata)
  case legal =>
    intro row hrow hmatch
    rw [eq_of_mem_commandRows row hrow] at hmatch ⊢
    obtain ⟨i, hi, hop⟩ := exists_decode_opcode_iff.mpr hmatch
    refine ⟨i, hi, hop, ?_⟩
    rw [step_of_decode_ok hport hi]
    split
    case isTrue h =>
      obtain ⟨hdata, hrun⟩ : isData i = true ∧ s.run = false := by simpa using h
      rw [exec_eq, effectAt_data_of_stopped thisCore (s := { s with port := rest }) hdata hrun]; rfl
    case isFalse => rfl

/-- Settles O27: a batch is the DBITs of its bits, in which the bits from `N` up do not occur. -/
theorem batchIsItsBits : Obligations.BatchIsItsBits := by
  unfold Obligations.BatchIsItsBits
  refine ⟨?asBits, ?lowBits, ?fields, ?assembled⟩
  case asBits =>
    intro s n d hn _
    refine ⟨_, exec_eq _ s, ?_⟩
    rw [execAll_eq, effectAt_dbatch thisCore s hn, batchBits, List.map_map]; rfl
  case lowBits =>
    intro s n d d' h
    rw [exec_eq, exec_eq, effectAt, effectAt, dbatchEffect, dbatchEffect, batchBits_congr h]
  case fields =>
    intro cmd wdata n d h
    obtain ⟨-, hbatch, -⟩ := operandsAreTheirFields cmd wdata _ h
    obtain ⟨hn, hd⟩ := hbatch n d rfl
    have hfield := (cmd.extractLsb' 24 4).isLt
    exact ⟨hn, by omega, by omega, hd⟩
  case assembled =>
    intro n d h k hk
    simp only [Instr.assemblable, Bool.and_eq_true, decide_eq_true_eq] at h
    obtain ⟨-, hd⟩ := h
    exact Nat.testBit_lt_two_pow (hd.trans_le (Nat.pow_le_pow_right (by decide) hk))

end Sys2Proof
end

section
/-! SUPPORT. One bit of the decoder as a command (spec/40_bit_synchronizer.md R203 to R210): the register after
the bit, the marker distance bit by bit, and the decoder's state after the bit; and what every other command does
to the decoder. -/

namespace Sys2Proof

namespace Machine

/-! ### The register and the marker comparison (R104, R204) -/

/-- A bit doubles the register and is added, modulo 2^32 (R43, R104). -/
theorem toNat_shiftIn (sr : Word) (b : Bool) : (shiftIn sr b).toNat = (2 * sr.toNat + b.toNat) % 2 ^ 32 := by
  have hdisjoint : sr <<< 1 &&& BitVec.zeroExtend 32 (BitVec.ofBool b) = 0#32 := by
    apply BitVec.eq_of_getLsbD_eq
    intro k hk
    cases k <;> simp
  rw [shiftIn, ← BitVec.add_eq_or_of_and_eq_zero _ _ hdisjoint]
  cases b <;> simp [BitVec.toNat_add, BitVec.toNat_shiftLeft, Nat.shiftLeft_eq, Nat.mul_comm]

theorem shiftIn_eq_of_toNat {sr sr' : Word} {b : Bool} (h : sr'.toNat = (2 * sr.toNat + b.toNat) % 2 ^ 32) :
    shiftIn sr b = sr' :=
  BitVec.eq_of_toNat_eq ((toNat_shiftIn sr b).trans h.symm)

/-- The distance counted bit by bit (R14). -/
theorem hamming_eq_length_filter (x y : Word) :
    hamming x y = ((List.range 32).filter fun k => x.getLsbD k != y.getLsbD k).length := by
  rw [hamming, popcount, List.countP_eq_length_filter]
  simp only [BitVec.getLsbD_xor, Bool.bne_eq_xor]

/-! ### One bit while running (R201, R203) -/

variable (P : Params) (s : State)

theorem searchBit_of_le (h : hamming s.dec.sr s.syncWord ≤ s.decCfg.t.toNat) : searchBit P s = declareSync P s :=
  if_pos (decide_eq_true h)

theorem searchBit_of_lt (h : s.decCfg.t.toNat < hamming s.dec.sr s.syncWord) : searchBit P s = s :=
  if_neg (by rw [markerFound, decide_eq_true_eq]; omega)

theorem codewordBit_of_ne_seven (h : s.dec.bitcnt.toNat ≠ 7) :
    codewordBit P s = s.withDec { s.dec with bitcnt := s.dec.bitcnt + 1#3 } :=
  if_neg (by omega)

/-- The eighth bit stores a byte, and the byte that fills the codeword runs the attempt, in a state whose byte
count is within the buffer (R203, R209). -/
theorem codewordBit_of_eq_seven (h : s.dec.bitcnt.toNat = 7) (hbyte : s.dec.bytecnt.toNat < Config.cwSize) :
    codewordBit P s =
      if s.dec.bytecnt.toNat + 1 = s.decCfg.depth.toNat * 255 then enterSyncSearch (decodeFrame P (storeByte s))
      else storeByte s := by
  have hcount : (storeByte s).dec.bytecnt.toNat = s.dec.bytecnt.toNat + 1 := by
    have hlt : s.dec.bytecnt.toNat < 2040 := hbyte
    change (s.dec.bytecnt + 1#11).toNat = _
    rw [BitVec.toNat_add]
    exact Nat.mod_eq_of_lt (by change s.dec.bytecnt.toNat + 1 < 2048; omega)
  rw [← hcount]
  exact if_pos (by omega)

/-- DBIT in SyncSearch, while running (R201, R203). -/
theorem effectAt_dbit_of_syncSearch (b : Bool) (hrun : s.run = true) (hd : s.dec.dstate = .syncSearch) :
    effectAt P (.dbit b) s = respond 0#32 (searchBit P (shifted s b)) := by
  rw [effectAt_dbit_of_run P b hrun, bitStep_of_syncSearch P s b hd]

/-- DBIT in Codeword, while running (R201, R203). -/
theorem effectAt_dbit_of_codeword (b : Bool) (hrun : s.run = true) (hd : s.dec.dstate = .codeword) :
    effectAt P (.dbit b) s = respond 0#32 (codewordBit P (shifted s b)) := by
  rw [effectAt_dbit_of_run P b hrun, bitStep_of_codeword P s b hd]

/-! ### The decoder's state after a bit (R200) -/

/-- The one way out of SyncSearch. -/
theorem searchBit_dstate_iff (hd : s.dec.dstate = .syncSearch) :
    (searchBit P s).dec.dstate = .codeword ↔ hamming s.dec.sr s.syncWord ≤ s.decCfg.t.toNat := by
  rcases Nat.lt_or_ge s.decCfg.t.toNat (hamming s.dec.sr s.syncWord) with hlt | hle
  · simp [searchBit_of_lt P s hlt, hd, hlt]
  · simp [searchBit_of_le P s hle, declareSync, hle]

/-- The one way out of Codeword. -/
theorem codewordBit_dstate_iff (hd : s.dec.dstate = .codeword) (hbyte : s.dec.bytecnt.toNat < Config.cwSize) :
    (codewordBit P s).dec.dstate = .syncSearch ↔
      s.dec.bitcnt.toNat = 7 ∧ s.dec.bytecnt.toNat + 1 = s.decCfg.depth.toNat * 255 := by
  by_cases hbit : s.dec.bitcnt.toNat = 7
  · rw [codewordBit_of_eq_seven P s hbit hbyte]
    split
    case isTrue hfull => simp [enterSyncSearch_eq, Decoder.enterSyncSearch, hbit, hfull]
    case isFalse hfull => simp [storeByte, hd, hfull]
  · simp [codewordBit_of_ne_seven P s hbit, hd, hbit]

/-! ### What the other commands do to the decoder -/

theorem dataCommand_frame {effect : State → State} (h : EncoderFrame s (effect s)) :
    EncoderFrame s (dataCommand effect s) := by
  cases hrun : s.run with
  | true => rwa [dataCommand_of_run s effect hrun]
  | false => rw [dataCommand_of_stopped s effect hrun]; exact illegalCommand_frame s

theorem effectAt_encoderFrame {i : Instr} (hi : isEncoderCommand i = true) : EncoderFrame s (effectAt P i s) := by
  cases i with
  | ebyte b => exact dataCommand_frame s (byteEffect_frame P s b)
  | emsg => exact dataCommand_frame s (queueEffect_frame s)
  | einvoke => exact dataCommand_frame s (invokeEffect_frame P s)
  | nop | dbit | dbatch | csrr | csrw | cntclr | reinit => cases hi

/-- A register write leaves the decoder alone, but for the rising edge of RUN (R57, R601). -/
theorem csrWrite_dec (a : BitVec 8) (v : Word) :
    (csrWrite P a v s).dec = s.dec ∨
      (csrWrite P a v s).dec = s.dec.enterSyncSearch ∧ a = 0x00#8 ∧ s.run = false ∧ v.getLsbD 0 = true := by
  rcases csrWrite_cases P s a v with ⟨ha, hrun, hv, h⟩ | ⟨-, -, h⟩ | ⟨-, -, -, h⟩ | ⟨-, -, -, h⟩ | ⟨-, -, h⟩ |
    ⟨-, h⟩ | ⟨-, h⟩ | ⟨-, h⟩ <;> rw [h]
  case inl => exact .inr ⟨rfl, ha, hrun, hv⟩
  all_goals exact .inl rfl

/-- Everything a command can do to the decoder: leave it alone, feed it bits while RUN = 1, or enter SyncSearch, by
REINIT or the rising edge of RUN (R145, R200, R601). -/
theorem effectAt_dec_cases (i : Instr) :
    (effectAt P i s).dec = s.dec ∨ (isDecoderCommand i = true ∧ s.run = true) ∨
      ((effectAt P i s).dec = s.dec.enterSyncSearch ∧
        (i = .reinit ∨ s.run = false ∧ ∃ v, i = .csrw 0x00#8 v ∧ v.getLsbD 0 = true)) := by
  cases i with
  | dbit | dbatch =>
    cases hrun : s.run with
    | true => exact .inr (.inl ⟨rfl, rfl⟩)
    | false => exact .inl (by rw [effectAt_data_of_stopped P rfl hrun]; rfl)
  | ebyte | emsg | einvoke => exact .inl (effectAt_encoderFrame P s rfl).dec
  | nop | csrr | cntclr => exact .inl rfl
  | reinit => exact .inr (.inr ⟨rfl, .inl rfl⟩)
  | csrw a v =>
    rcases csrWrite_dec P s a v with hdec | ⟨hdec, rfl, hrun, hv⟩
    · exact .inl hdec
    · exact .inr (.inr ⟨hdec, .inr ⟨hrun, v, rfl, hv⟩⟩)

end Machine

end Sys2Proof
end

section
/-! SUPPORT. The statements about single bits and the decoder's states, settled. -/

namespace Sys2Proof

open Machine

/-- Settles O25: the marker comparison decides which of the two search bits it is. -/
theorem bitInSyncSearch : Obligations.BitInSyncSearch := by
  unfold Obligations.BitInSyncSearch
  intro s b sr hrun hd hsr
  obtain rfl := shiftIn_eq_of_toNat hsr
  rw [exec_eq, effectAt_dbit_of_syncSearch thisCore s b hrun hd, ← hamming_eq_length_filter]
  refine ⟨fun hle => ?sync, fun hlt => ?noSync⟩
  case sync =>
    rw [searchBit_of_le thisCore (shifted s b) hle, declareSync, inc_thisCore]; rfl
  case noSync =>
    rw [searchBit_of_lt thisCore (shifted s b) hlt]; rfl

/-- Settles O26: the position counters decide which of the three codeword bits it is. -/
theorem bitInCodeword : Obligations.BitInCodeword := by
  unfold Obligations.BitInCodeword
  intro s b sr hrun hd hbyte hsr
  obtain rfl := shiftIn_eq_of_toNat hsr
  rw [exec_eq, effectAt_dbit_of_codeword thisCore s b hrun hd]
  refine ⟨fun hbit => ?withinByte, fun hbit => ?eighthBit⟩
  case withinByte =>
    rw [codewordBit_of_ne_seven thisCore (shifted s b) (Nat.ne_of_lt hbit)]; rfl
  case eighthBit =>
    rw [codewordBit_of_eq_seven thisCore (shifted s b) hbit hbyte]
    refine ⟨fun hpart => ?stored, fun hfull => ?decoded⟩
    case stored => rw [if_neg (by exact hpart)]; rfl
    case decoded => rw [if_pos (by exact hfull)]; rfl

/-- Settles O54: the two transitions are those of one bit, and every other step leaves the decoder alone or enters
SyncSearch. -/
theorem decoderStateTransitions : Obligations.DecoderStateTransitions := by
  unfold Obligations.DecoderStateTransitions
  refine ⟨rfl, ?oneBit, ?oneStep⟩
  case oneBit =>
    intro s b hinv hrun
    refine ⟨_, exec_eq _ s, fun hd => ?search, fun hd => ?codeword⟩
    case search =>
      rw [effectAt_dbit_of_syncSearch thisCore s b hrun hd]
      exact searchBit_dstate_iff thisCore (shifted s b) hd
    case codeword =>
      rw [effectAt_dbit_of_codeword thisCore s b hrun hd]
      exact codewordBit_dstate_iff thisCore (shifted s b) hd hinv.inBuffer
  case oneStep =>
    intro s t hstep hne
    rw [step_next hstep] at hne ⊢
    rcases stepTo_cases s with ⟨-, h⟩ | ⟨_, _, rest, i, -, -, hnext, h⟩ | ⟨_, _, rest, _, -, -, -, h⟩ |
      ⟨rest, -, hreset, h⟩
    · exact absurd (by rw [h]) hne
    · rw [h] at hne ⊢
      rcases effectAt_dec_cases thisCore (s.withPort rest) i with hdec | ⟨hi, hrun⟩ | ⟨hdec, hcause⟩
      · exact absurd (by rw [hdec]; rfl) hne
      · exact .inl ⟨hrun, i, hnext, hi⟩
      · refine .inr ⟨by rw [hdec]; rfl, .inr ?_⟩
        simpa only [hnext, Option.some.injEq, State.withPort_run] using hcause
    · exact absurd (by rw [h]; rfl) hne
    · exact .inr ⟨by rw [h]; rfl, .inl hreset⟩

end Sys2Proof
end

section
/-! SUPPORT. One decode attempt in the terms of Safety.lean (spec/40_bit_synchronizer.md R215 to R221): what the
engine answers on each received block decides the outcome, the counts and the payload. -/

namespace Sys2Proof

namespace Machine

/-! ### What the engine is given and what comes of its answer (R216 to R218) -/

theorem place_eq_pos (interleaved : Bool) (n blen i j : Nat) :
    place interleaved n blen i j = pos (Layout.ofBit interleaved) n blen i j := by
  cases interleaved <;> rfl

variable (P : Params) {s : State}

theorem bufRead_descrambled (C : Cover) {k : Nat} (hdepth : s.decCfg.depth.toNat ≤ 8)
    (hk : k < s.decCfg.depth.toNat * 255) : bufRead (descrambled C s) k = receivedByte C s k := by
  have hcw : k < Config.cwSize := Nat.lt_of_lt_of_le hk (cwLen_le hdepth)
  have hlen : k < decCwLen s := hk
  cases hd : s.decCfg.dscrEn with
  | false => simp [descrambled, receivedByte, hd]
  | true => simp [descrambled, receivedByte, hd, bufRead_scramble C _ _ hcw, hlen, coverAt]

theorem extractBlock_descrambled (C : Cover) {i : Nat} (hdepth : s.decCfg.depth.toNat ≤ 8)
    (hi : i < s.decCfg.depth.toNat) :
    extractBlock (decLayout s) (decDepth s) Config.rsN i (descrambled C s) = receivedBlock C s i := by
  apply buf_ext
  intro j hj
  have hlt := pos_lt (decLayout s) hi hj
  rw [bufRead_extractBlock _ _ _ _ _ hj, receivedBlock, bufRead_ofFn _ hj, place_eq_pos]
  exact bufRead_descrambled C hdepth hlt

/-- What an attempt has of sub-block `i` of the received codeword after step 3 (R218). -/
def receivedOutcome (P : Params) (s : State) (i : Nat) : BlockOutcome :=
  subBlockOutcome P.engine s (descrambled P.cover s) i

/-- The three outcomes of a sub-block and the answer behind each (R218, R361, R366). -/
theorem receivedOutcome_cases {i : Nat} (hdepth : s.decCfg.depth.toNat ≤ 8) (hi : i < s.decCfg.depth.toNat) :
    (s.decCfg.rsEn = false ∧ blockAnswer P s i = some (0, receivedBlock P.cover s i) ∧
      receivedOutcome P s i = .bypassed (receivedBlock P.cover s i)) ∨
    (s.decCfg.rsEn = true ∧ blockAnswer P s i = none ∧
      receivedOutcome P s i = .failed (receivedBlock P.cover s i)) ∨
    (s.decCfg.rsEn = true ∧ ∃ c x, blockAnswer P s i = some (c, x) ∧ receivedOutcome P s i = .corrected c x) := by
  rw [receivedOutcome, subBlockOutcome, extractBlock_descrambled P.cover hdepth hi, rsDecodeCall, blockAnswer]
  cases s.decCfg.rsEn with
  | false => exact .inl ⟨rfl, rfl, rfl⟩
  | true =>
    cases P.engine.decode (receivedBlock P.cover s i) s.decCfg.dual with
    | none => exact .inr (.inl ⟨rfl, rfl, rfl⟩)
    | some a => exact .inr (.inr ⟨rfl, a.1, a.2, rfl, rfl⟩)

section

variable {i : Nat} (hdepth : s.decCfg.depth.toNat ≤ 8) (hi : i < s.decCfg.depth.toNat)

include hdepth hi

theorem receivedOutcome_ok : (receivedOutcome P s i).ok = (blockAnswer P s i).isSome := by
  rcases receivedOutcome_cases P hdepth hi with ⟨-, hans, h⟩ | ⟨-, hans, h⟩ | ⟨-, c, x, hans, h⟩ <;>
    rw [hans, h] <;> rfl

theorem receivedOutcome_counted :
    (receivedOutcome P s i).counted = (s.decCfg.rsEn && (blockAnswer P s i).isSome) := by
  rcases receivedOutcome_cases P hdepth hi with ⟨hrs, hans, h⟩ | ⟨hrs, hans, h⟩ | ⟨hrs, c, x, hans, h⟩ <;>
    rw [hrs, hans, h] <;> rfl

theorem receivedOutcome_count :
    (receivedOutcome P s i).count = ((blockAnswer P s i).map Prod.fst).getD 0 := by
  rcases receivedOutcome_cases P hdepth hi with ⟨-, hans, h⟩ | ⟨-, hans, h⟩ | ⟨-, c, x, hans, h⟩ <;>
    rw [hans, h] <;> rfl

theorem receivedOutcome_block : (receivedOutcome P s i).block = blockUsed P s i := by
  rcases receivedOutcome_cases P hdepth hi with ⟨-, hans, h⟩ | ⟨-, hans, h⟩ | ⟨-, c, x, hans, h⟩ <;>
    rw [blockUsed, hans, h] <;> rfl

end

/-! ### The whole attempt (R219, R220) -/

/-- The attempt a full codeword runs (R215). -/
def receivedAttempt (P : Params) (s : State) : Attempt := runAttempt P s (descrambled P.cover s)

/-- Everything a decode attempt changes (R215 to R221). -/
theorem decodeFrame_eq_of_receivedAttempt (s : State) :
    decodeFrame P s =
      let a := receivedAttempt P s
      { s with
        dec := { s.dec with cw := descrambled P.cover s, pl := a.pl }
        counters := attemptCounters P a (fillFast a.pl) s.counters
        sticky := { s.sticky with uncorr := s.sticky.uncorr || !a.ok }
        rx := if a.ok && !fillFast a.pl then s.rx ++ [a.pl.toList.take (decPLen s)] else s.rx
        last :=
          { valid := true, ok := a.ok, fillFast := fillFast a.pl, fillExh := fillExhaustive a.pl (decPLen s)
            failMask := a.failMask, corr := a.corr } } := by
  rw [decodeFrame_eq, concludeAttempt_eq]; rfl

section

variable (hdepth : s.decCfg.depth.toNat ≤ 8)

include hdepth

theorem receivedAttempt_ok :
    (receivedAttempt P s).ok = true ↔ ∀ i < s.decCfg.depth.toNat, blockAnswer P s i ≠ none := by
  rw [receivedAttempt, runAttempt_eq, attemptUpTo_ok]
  refine forall₂_congr fun i hi => ?_
  rw [← Option.isSome_iff_ne_none, ← receivedOutcome_ok P hdepth hi, receivedOutcome]

theorem receivedAttempt_failMask {i : Nat} (hbit : i < 8) :
    (receivedAttempt P s).failMask.getLsbD i = true ↔ i < s.decCfg.depth.toNat ∧ blockAnswer P s i = none := by
  rw [receivedAttempt, runAttempt_eq, attemptUpTo_failMask _ _ _ _ hbit]
  refine and_congr_right fun hi => ?_
  rw [← Option.not_isSome_iff_eq_none, ← receivedOutcome_ok P hdepth hi, Bool.not_eq_true, receivedOutcome]

theorem receivedAttempt_corr :
    (receivedAttempt P s).corr = BitVec.ofNat 32
      ((List.range s.decCfg.depth.toNat).map fun i => ((blockAnswer P s i).map Prod.fst).getD 0).sum := by
  rw [receivedAttempt, runAttempt_eq, attemptUpTo_corr]
  congr 2
  exact List.map_congr_left fun i hi => receivedOutcome_count P hdepth (List.mem_range.mp hi)

theorem receivedAttempt_subframes :
    (receivedAttempt P s).subframes = countOn P.cntWidth
      (if s.decCfg.rsEn then ((List.range s.decCfg.depth.toNat).filter fun i => (blockAnswer P s i).isSome).length
        else 0) s.counters.subframesDecoded := by
  have hcounted : countedUpTo P s (descrambled P.cover s) (decDepth s) =
      (List.range s.decCfg.depth.toNat).countP fun i => s.decCfg.rsEn && (blockAnswer P s i).isSome :=
    List.countP_congr fun i hi => by
      rw [← receivedOutcome_counted P hdepth (List.mem_range.mp hi), receivedOutcome]
  rw [receivedAttempt, runAttempt_eq, attemptUpTo_subframes, iterate_inc_eq_countOn P.cntWidth_legal.2, hcounted]
  cases s.decCfg.rsEn <;> simp [List.countP_eq_length_filter]

/-- The payload buffer holds the data bytes of every block in their places (R219). -/
theorem bufRead_receivedAttempt_pl {i j : Nat} (hi : i < s.decCfg.depth.toNat) (hj : j < 223) :
    bufRead (receivedAttempt P s).pl (place s.decCfg.ilvEn s.decCfg.depth.toNat 223 i j) =
      bufRead (blockUsed P s i) j := by
  rw [receivedAttempt, runAttempt_eq, attemptUpTo_pl, place_eq_pos, ← receivedOutcome_block P hdepth hi]
  exact bufRead_insertBlocks_pos _ _ _ _ (Nat.le_refl _) hi hj (pLen_le hdepth)

/-- The payload published is the received one (R219, R221). -/
theorem eq_take_of_isReceivedPayload {p : List Byte} (h : IsReceivedPayload P s p) :
    p = (receivedAttempt P s).pl.toList.take (decPLen s) := by
  obtain ⟨hlen, hbytes⟩ := h
  have hfits : decPLen s ≤ Config.plSize := pLen_le hdepth
  refine List.ext_getElem? fun k => ?_
  rcases Nat.lt_or_ge k (decPLen s) with hk | hk
  · rw [getElem?_take_toList _ hk hfits]
    obtain ⟨i, j, hi, hj, rfl⟩ := pos_surj (Layout.ofBit s.decCfg.ilvEn) hk
    change p[pos _ s.decCfg.depth.toNat 223 i j]? = some (bufRead _ (pos _ s.decCfg.depth.toNat 223 i j))
    rw [← place_eq_pos, hbytes i hi j hj, bufRead_receivedAttempt_pl P hdepth hi hj]
  · rw [List.getElem?_eq_none (hlen.trans_le hk),
      List.getElem?_eq_none ((length_take_toList _ hfits).trans_le hk)]

end

/-! ### What the verdicts are about: a count and the payload bytes (R220, R221) -/

/-- A count that moves by one or not at all. -/
theorem ite_inc_eq_countOn (W : Nat) (moves : Bool) (c : BitVec Config.cntWidth) :
    (if moves then inc W c else c) = countOn W (if moves then 1 else 0) c := by
  cases moves <;> rfl

/-- The first bytes of a buffer are all zeros iff each of them reads 0. -/
theorem forall_mem_take_toList {m n : Nat} (buf : Vector Byte m) (hn : n ≤ m) :
    (∀ x ∈ buf.toList.take n, x = 0#8) ↔ ∀ k < n, bufRead buf k = 0#8 := by
  constructor
  · exact fun h k hk => h _ (List.mem_of_getElem? (getElem?_take_toList buf hk hn))
  · intro h x hx
    obtain ⟨k, hk⟩ := List.mem_iff_getElem?.mp hx
    have hkn : k < n := by
      have hlt := (List.getElem?_eq_some_iff.mp hk).1
      rwa [length_take_toList buf hn] at hlt
    rw [getElem?_take_toList buf hkn hn, Option.some.injEq] at hk
    rw [← hk, h k hkn]

end Machine

end Sys2Proof
end

section
/-! SUPPORT. The statements about the decode attempt, settled. -/

namespace Sys2Proof

open Machine

/-- Settles O33: the attempt's own fields, in the terms of what the engine answers. -/
theorem decodeAttemptOutcome : Obligations.DecodeAttemptOutcome := by
  unfold Obligations.DecodeAttemptOutcome
  intro P s _ hdepth
  rw [decodeFrame_eq_of_receivedAttempt]
  refine ⟨receivedAttempt_ok P hdepth, fun i hi => receivedAttempt_failMask P hdepth hi,
    receivedAttempt_corr P hdepth, rfl, ite_inc_eq_countOn .., receivedAttempt_subframes P hdepth, rfl, rfl,
    fun hrs => ?bypassed⟩
  case bypassed =>
    exact (receivedAttempt_ok P hdepth).mpr fun i _ => by simp [blockAnswer, hrs]

/-- Settles O34: the payload is the first bytes of the payload buffer, which both detectors read. -/
theorem decodeAttemptPublication : Obligations.DecodeAttemptPublication := by
  unfold Obligations.DecodeAttemptPublication
  intro P s p hpos hdepth hp
  obtain rfl := eq_take_of_isReceivedPayload P hdepth hp
  have hfits : decPLen s ≤ Config.plSize := pLen_le hdepth
  have htwo : 1 < decPLen s := by change 1 < s.decCfg.depth.toNat * 223; omega
  rw [decodeFrame_eq_of_receivedAttempt]
  refine ⟨?fast, ?exhaustive, rfl, ite_inc_eq_countOn .., rfl⟩
  case fast =>
    rw [getElem?_take_toList _ (Nat.zero_lt_of_lt htwo) hfits, getElem?_take_toList _ htwo hfits,
      Option.some.injEq, Option.some.injEq]
    exact fillFast_iff _
  case exhaustive =>
    exact (fillExhaustive_iff _ _).trans (forall_mem_take_toList _ hfits).symm

end Sys2Proof
end

section
/-! SUPPORT. The assembled frame in the terms of Safety.lean (spec/41_frame_assembler.md R256 to R262): every
codeword byte is the byte of its sub-block, and the layouts put the marker where the wire frame has it. -/

namespace Sys2Proof

namespace Machine

variable (P : Params) (s : State) (p : List Byte)

/-! ### The bytes of the codeword (R257 to R259) -/

/-- The data bytes handed to the engine are those of the sub-block (R257). -/
theorem payloadBlock_eq_sentData (i : Nat) : payloadBlock s p i = sentData s.encCfg p i := by
  apply buf_ext
  intro j hj
  rw [bufRead_payloadBlock s p i hj, sentData, bufRead_ofFn _ hj, place_eq_pos]; rfl

/-- An encoded block is data, then the engine's parity or zeros (R258, R362). -/
theorem bufRead_payloadEncodedBlock (e : RsEngine) (i : Nat) {j : Nat} (hj : j < 255) :
    bufRead (payloadEncodedBlock e s p i) j = sentByte e s.encCfg p i j := by
  rw [payloadEncodedBlock, bufRead_encodedBlock e _ _ _ hj, payloadBlock_eq_sentData, sentByte, rsParityCall]
  cases s.encCfg.rsEn with
  | true => rfl
  | false => simp

/-- The codeword of a legal depth is the sent one (R256, R257, R259). -/
theorem isSentCodeword_encodedCodeword (hdepth : s.encCfg.depth.toNat ≤ 8) :
    IsSentCodeword P s.encCfg p (encodedCodeword P s p) := by
  refine ⟨length_encodedCodeword P s p hdepth, fun i (hi : i < encDepth s) j hj => ?_⟩
  have hbyte := getElem?_encodedCodeword P s p hdepth (pos_lt (encLayout s) hi hj)
  rw [bufRead_assembledCodeword P.engine s p hdepth hi hj, bufRead_payloadEncodedBlock s p P.engine i hj] at hbyte
  rwa [place_eq_pos]

/-! ### The layouts (R260 to R262) -/

theorem assemble_eq_wireFrame (tail started : Bool) (m ecw : List Byte) :
    assemble tail started m ecw = wireFrame tail started m ecw := by
  cases tail <;> cases started <;> rfl

theorem frameOf_eq_wireFrame :
    frameOf P s p = wireFrame s.encCfg.tail s.enc.started (wireMarker s.syncWord) (encodedCodeword P s p) :=
  assemble_eq_wireFrame ..

/-- The frame of a legal depth is the wire frame (R256 to R262). -/
theorem isWireFrame_frameOf (hdepth : s.encCfg.depth.toNat ≤ 8) : IsWireFrame P s p (frameOf P s p) :=
  ⟨_, isSentCodeword_encodedCodeword P s p hdepth, frameOf_eq_wireFrame P s p⟩

end Machine

end Sys2Proof
end

section
/-! SUPPORT. The encoder's commands one case at a time (spec/41_frame_assembler.md R251 to R255): the words that
select them, and what each does by mode, pending message and byte count. -/

namespace Sys2Proof

/-- A command without operands, whose row fixes every bit, is one word exactly (R137). -/
theorem decode_eq_ok_iff_eq_matchWord {i : Instr} (hmask : i.opcode.maskWord = BitVec.allOnes 32)
    (hops : ∀ cmd wdata, i.opcode.operands cmd wdata = i) (cmd wdata : Word) :
    decode cmd wdata = .ok i ↔ cmd = i.opcode.matchWord := by
  constructor
  · intro h
    have hmatch := exists_decode_opcode_iff.mp ⟨i, h, rfl⟩
    rwa [hmask, BitVec.and_allOnes] at hmatch
  · rintro rfl
    rw [decode_of_match (by rw [hmask, BitVec.and_allOnes]), hops]

theorem exists_decode_ebyte_iff (cmd wdata : Word) :
    (∃ b, decode cmd wdata = .ok (.ebyte b)) ↔ cmd &&& 0xFFFFFF00#32 = 0x30000000#32 := by
  constructor
  · rintro ⟨b, h⟩
    exact exists_decode_opcode_iff.mp ⟨_, h, rfl⟩
  · exact fun hmatch => ⟨_, decode_of_match (op := .ebyte) hmatch wdata⟩

namespace Machine

variable (P : Params) {s : State}

/-! ### EBYTE (R251) -/

theorem effectAt_ebyte_of_stream (b : Byte) (hrun : s.run = true) (hmode : s.encCfg.msgMode = false) :
    effectAt P (.ebyte b) s = respond 0#32 (streamByte P b s) := by
  rw [effectAt, ebyteEffect, dataCommand_of_run s _ hrun, byteEffect, hmode]; rfl

theorem effectAt_ebyte_of_message (b : Byte) (hrun : s.run = true) (hmode : s.encCfg.msgMode = true) :
    effectAt P (.ebyte b) s = respond 0#32 (messageByte P b s) := by
  rw [effectAt, ebyteEffect, dataCommand_of_run s _ hrun, byteEffect, hmode]; rfl

/-- A byte offered while a message is queued is dropped (R253). -/
theorem messageByte_of_pending (b : Byte) (h : s.enc.pending = true) :
    messageByte P b s = raise .illegalCommand s := by
  simpa [h] using messageByte_cases P b s

/-- A byte of the message being built is counted, and stored while the payload unit has room (R251). -/
theorem messageByte_of_not_pending (b : Byte) (h : s.enc.pending = false) :
    messageByte P b s = s.withEnc
      { s.enc with
        ebuf := if s.enc.ecount.toNat < encPLen s then bufWrite s.enc.ebuf s.enc.ecount.toNat b else s.enc.ebuf
        ecount := sat P.ecntWidth s.enc.ecount } := by
  simpa [h] using messageByte_cases P b s

/-- Below 0xFFFF the saturating count is plain addition (R14, R253). -/
theorem sat_thisCore_of_lt {c : BitVec Config.ecntWidth} (h : c.toNat < 0xFFFF) :
    sat thisCore.ecntWidth c = c + 1#16 := by
  rw [sat_thisCore, if_neg]
  rintro rfl
  exact absurd h (by decide)

/-- Below the end of a payload unit the byte count does not wrap, since its width holds the length of every
payload of a legal depth (R8, R251). -/
theorem toNat_store_ecount (b : Byte) (hdepth : s.encCfg.depth.toNat ≤ P.pMaxI)
    (hcount : s.enc.ecount.toNat < encPLen s) :
    (s.enc.store P b).ecount.toNat = s.enc.ecount.toNat + 1 := by
  obtain ⟨hfits, hwidth⟩ := P.ecntWidth_legal
  have hunit : encPLen s ≤ Config.pLen P.pMaxI := Nat.mul_le_mul_right _ hdepth
  exact (toNat_inc hwidth _).trans (Nat.mod_eq_of_lt (by omega))

/-- A byte within a payload unit is stored and counted (R251). -/
theorem streamByte_of_lt (b : Byte) (hdepth : s.encCfg.depth.toNat ≤ P.pMaxI)
    (h : s.enc.ecount.toNat + 1 < encPLen s) : streamByte P b s = s.withEnc (s.enc.store P b) :=
  streamByte_of_ne P s b (by rw [toNat_store_ecount P b hdepth (by omega)]; omega)

/-- The byte that completes a payload unit emits the unit's frame (R251, R252). -/
theorem streamByte_of_last (b : Byte) (hdepth : s.encCfg.depth.toNat ≤ P.pMaxI)
    (h : s.enc.ecount.toNat + 1 = encPLen s) :
    streamByte P b s =
      { s with
        tx := s.tx ++ frameOf P s (stagedPayload (s.withEnc (s.enc.store P b)))
        counters := { s.counters with framesTransmitted := inc P.cntWidth s.counters.framesTransmitted }
        enc := { s.enc.store P b with ecount := 0#16, started := true } } :=
  streamByte_of_eq P s b (by rw [toNat_store_ecount P b hdepth (by omega)]; omega)

/-! ### EMSG and EINVOKE (R254, R255) -/

theorem effectAt_emsg_of_run (hrun : s.run = true) : effectAt P .emsg s = queueEffect s :=
  dataCommand_of_run s _ hrun

theorem effectAt_einvoke_of_run (hrun : s.run = true) : effectAt P .einvoke s = invokeEffect P s :=
  dataCommand_of_run s _ hrun

/-- EMSG in stream mode or with a message queued is turned away (R254). -/
theorem queueEffect_of_turnedAway (h : s.encCfg.msgMode = false ∨ s.enc.pending = true) :
    queueEffect s = turnedAway s := by
  rw [queueEffect, if_pos (by simpa using h)]; rfl

/-- EMSG in message mode with no message queued queues the one built so far (R254). -/
theorem queueEffect_of_not_pending (hmode : s.encCfg.msgMode = true) (hpend : s.enc.pending = false) :
    queueEffect s = { s with enc := { s.enc with pending := true }, rdata := 0#32 } := by
  rw [queueEffect, if_neg (by simp [hmode, hpend])]; rfl

/-- EINVOKE in stream mode is turned away (R255). -/
theorem invokeEffect_of_stream (hmode : s.encCfg.msgMode = false) :
    invokeEffect P s = respond 0#32 (raise .illegalCommand s) := by
  simpa [hmode] using invokeEffect_cases P s

section

variable (hmode : s.encCfg.msgMode = true)

include hmode

/-- Nothing queued, idle frames on: the frame of an all-zero payload (R255, R264). -/
theorem invokeEffect_of_idle (hpend : s.enc.pending = false) (hidle : s.encCfg.idleEn = true) :
    invokeEffect P s = respond 0#32 (encodeFrame P (zeros (encPLen s)) s) := by
  simpa [hmode, hpend, hidle] using invokeEffect_cases P s

/-- Nothing queued, idle frames off: a malformed input message (R255, R504). -/
theorem invokeEffect_of_malformed (hpend : s.enc.pending = false) (hidle : s.encCfg.idleEn = false) :
    invokeEffect P s = respond 0#32 (raise .malformedInputMessage s) := by
  simpa [hmode, hpend, hidle] using invokeEffect_cases P s

/-- A queued message of the wrong length is dropped (R255, R505). -/
theorem invokeEffect_of_mismatch (hpend : s.enc.pending = true) (hlen : s.enc.ecount.toNat ≠ encPLen s) :
    invokeEffect P s = respond 0#32 (clearPending (raise .lengthMismatch s)) := by
  simpa [hmode, hpend, hlen] using invokeEffect_cases P s

/-- A queued message of the right length: its frame (R255, R263). -/
theorem invokeEffect_of_message (hpend : s.enc.pending = true) (hlen : s.enc.ecount.toNat = encPLen s) :
    invokeEffect P s = respond 0#32 (clearPending (encodeFrame P (stagedPayload s) s)) := by
  simpa [hmode, hpend, hlen] using invokeEffect_cases P s

end

end Machine

end Sys2Proof
end

section
/-! SUPPORT. The statements about the frame assembler, settled (spec/41_frame_assembler.md). -/

namespace Sys2Proof

open Machine

/-- Settles O40: the assembled frame is the wire frame, whatever the payload's length. -/
theorem frameBytes : Obligations.FrameBytes := by
  unfold Obligations.FrameBytes
  intro P s p _ hdepth _
  exact ⟨isWireFrame_frameOf P s p hdepth, rfl⟩

/-- Settles O41: each layout with its codeword, which has 255 bytes per sub-block. -/
theorem frameLengths : Obligations.FrameLengths := by
  unfold Obligations.FrameLengths
  intro P s p _ hdepth
  have hecw : (encodedCodeword P s p).length = 255 * s.encCfg.depth.toNat :=
    (length_encodedCodeword P s p hdepth).trans (Nat.mul_comm ..)
  have hmarker : (wireMarker s.syncWord).length = 4 := rfl
  have hframe := frameOf_eq_wireFrame P s p
  refine ⟨rfl, fun htail => ?normal, fun htail hstarted => ?later, fun htail hstarted => ?first⟩
  case normal =>
    rw [htail, wireFrame] at hframe
    exact ⟨_, hframe, hecw, by rw [hframe, List.length_append, hecw, hmarker]⟩
  case later =>
    rw [htail, hstarted, wireFrame] at hframe
    exact ⟨_, hframe, hecw, by rw [hframe, List.length_append, hecw, hmarker]⟩
  case first =>
    rw [htail, hstarted, wireFrame] at hframe
    exact ⟨_, hframe, hecw, by rw [hframe, List.length_append, List.length_append, hecw, hmarker]; omega⟩

/-- Settles O37: the mode and the byte count decide what the byte does. -/
theorem payloadByte : Obligations.PayloadByte := by
  unfold Obligations.PayloadByte
  refine ⟨exists_decode_ebyte_iff, fun s b _ hdepth => ?_⟩
  simp only [exec_eq]
  refine ⟨fun hrun => ?stopped, fun hrun hmode hlt => ?streamStored, fun hrun hmode hlast => ?streamLast,
    fun hrun hmode hpend => ?messagePending, fun hrun hmode hpend hlt => ?messageStored,
    fun hrun hmode hpend hge => ?messageCounted, fun P hrun hmode hpend => ?messageCount,
    fun P hrun hmode hmax hlt => ?streamCount⟩
  case stopped => rw [effectAt_data_of_stopped thisCore rfl hrun]; rfl
  case streamStored =>
    rw [effectAt_ebyte_of_stream thisCore b hrun hmode, streamByte_of_lt thisCore b hdepth hlt, Encoder.store,
      inc_thisCore_ecount]; rfl
  case streamLast =>
    refine ⟨_, isWireFrame_frameOf thisCore s _ hdepth, ?_⟩
    rw [effectAt_ebyte_of_stream thisCore b hrun hmode, streamByte_of_last thisCore b hdepth hlast, inc_thisCore]; rfl
  case messagePending =>
    rw [effectAt_ebyte_of_message thisCore b hrun hmode, messageByte_of_pending thisCore b hpend]; rfl
  case messageStored =>
    rw [effectAt_ebyte_of_message thisCore b hrun hmode, messageByte_of_not_pending thisCore b hpend,
      if_pos (show s.enc.ecount.toNat < encPLen s from hlt), sat_thisCore_of_lt (by omega)]; rfl
  case messageCounted =>
    rw [effectAt_ebyte_of_message thisCore b hrun hmode, messageByte_of_not_pending thisCore b hpend,
      if_neg (show ¬s.enc.ecount.toNat < encPLen s from Nat.not_lt.mpr hge), sat_thisCore]; rfl
  case messageCount =>
    rw [effectAt_ebyte_of_message P b hrun hmode, messageByte_of_not_pending P b hpend]
    exact toNat_sat P.ecntWidth_legal.2 _
  case streamCount =>
    rw [effectAt_ebyte_of_stream P b hrun hmode]
    split
    case isTrue hlast => rw [streamByte_of_last P b hmax hlast]; rfl
    case isFalse hne =>
      rw [streamByte_of_lt P b hmax (Nat.lt_of_le_of_ne hlt hne)]
      exact toNat_store_ecount P b hmax hlt

/-- Settles O39: one case of what EINVOKE can find for each clause. -/
theorem encoderInvocation : Obligations.EncoderInvocation := by
  unfold Obligations.EncoderInvocation
  refine ⟨decode_eq_ok_iff_eq_matchWord rfl fun _ _ => rfl, fun s _ hdepth => ?_⟩
  simp only [exec_eq]
  refine ⟨fun h => ?turnedAway, fun hrun hmode hpend hidle => ?idle, fun hrun hmode hpend hidle => ?malformed,
    fun hrun hmode hpend hne => ?mismatch, fun hrun hmode hpend hlen => ?message⟩
  case turnedAway =>
    cases hrun : s.run with
    | false => rw [effectAt_data_of_stopped thisCore rfl hrun]; rfl
    | true => rw [effectAt_einvoke_of_run thisCore hrun, invokeEffect_of_stream thisCore (by simpa [hrun] using h)]; rfl
  case idle =>
    refine ⟨_, isWireFrame_frameOf thisCore s _ hdepth, ?_⟩
    rw [effectAt_einvoke_of_run thisCore hrun, invokeEffect_of_idle thisCore hmode hpend hidle, encodeFrame_eq,
      inc_thisCore]; rfl
  case malformed =>
    rw [effectAt_einvoke_of_run thisCore hrun, invokeEffect_of_malformed thisCore hmode hpend hidle]; rfl
  case mismatch =>
    rw [effectAt_einvoke_of_run thisCore hrun, invokeEffect_of_mismatch thisCore hmode hpend hne]; rfl
  case message =>
    refine ⟨_, isWireFrame_frameOf thisCore s _ hdepth, ?_⟩
    rw [effectAt_einvoke_of_run thisCore hrun, invokeEffect_of_message thisCore hmode hpend hlen, encodeFrame_eq,
      inc_thisCore]; rfl

/-- Settles O38: EMSG queues a message exactly in message mode with none queued. -/
theorem messageQueued : Obligations.MessageQueued := by
  unfold Obligations.MessageQueued
  refine ⟨decode_eq_ok_iff_eq_matchWord rfl fun _ _ => rfl, fun s => ?_⟩
  simp only [exec_eq]
  refine ⟨fun h => ?turnedAway, fun hrun hmode hpend => ?queued⟩
  case turnedAway =>
    cases hrun : s.run with
    | false => rw [effectAt_data_of_stopped thisCore rfl hrun]; rfl
    | true => rw [effectAt_emsg_of_run thisCore hrun, queueEffect_of_turnedAway (by simpa [hrun] using h)]
  case queued => rw [effectAt_emsg_of_run thisCore hrun, queueEffect_of_not_pending hmode hpend]

end Sys2Proof
end

section
/-! SUPPORT. The statements about the interleave address map, settled (spec/42_interleave.md). -/

namespace Sys2Proof

open Machine

/-- Settles O43: each mode's formula is its branch of `pos`, and the range is the one bound of both modes. -/
theorem interleavePositions : Obligations.InterleavePositions := by
  unfold Obligations.InterleavePositions
  intro n blen i j hi hj
  exact ⟨rfl, rfl, pos_lt .ilv hi hj, pos_lt .contig hi hj⟩

end Sys2Proof
end

section
/-! SUPPORT. The fill detectors in the terms of the payload bytes, and the bound of their sum
(spec/44_fill_detector.md R340, R341). -/

namespace Sys2Proof

namespace Machine

/-- Inside the buffer the byte stored is the byte read. -/
theorem getElem?_eq_some_iff_bufRead_eq {m k : Nat} (buf : Vector Byte m) (v : Byte) (hk : k < m) :
    buf[k]? = some v ↔ bufRead buf k = v := by
  rw [Vector.getElem?_eq_getElem hk, Option.some.injEq, bufRead_of_lt buf hk]

theorem payloadSum_le (pl : Vector Byte Config.plSize) (p : Nat) : payloadSum pl p ≤ p * 255 := by
  have hbyte : ∀ x ∈ (List.range p).map fun k => (bufRead pl k).toNat, x ≤ 255 := by
    intro x hx
    obtain ⟨k, -, rfl⟩ := List.mem_map.mp hx
    exact Nat.le_of_lt_succ (bufRead pl k).isLt
  simpa [payloadSum] using List.sum_le_card_nsmul _ 255 hbyte

end Machine

end Sys2Proof
end

section
/-! SUPPORT. The statement about the fill detectors, settled (spec/44_fill_detector.md). -/

namespace Sys2Proof

open Machine

/-- Settles O35: both detectors read bytes inside the buffer, and the whole buffer is 8 * 223 bytes of at most 255. -/
theorem fillDetectors : Obligations.FillDetectors := by
  unfold Obligations.FillDetectors
  intro pl p hp
  refine ⟨?fast, decide_eq_true_iff, ?bound, ?everyByte⟩
  case fast =>
    rw [getElem?_eq_some_iff_bufRead_eq pl _ (by decide), getElem?_eq_some_iff_bufRead_eq pl _ (by decide)]
    exact fillFast_iff pl
  case bound =>
    calc payloadSum pl p
      _ ≤ p * 255 := payloadSum_le pl p
      _ ≤ Config.plSize * 255 := Nat.mul_le_mul_right 255 hp
  case everyByte =>
    rw [fillExhaustive_iff]
    exact forall₂_congr fun k hk => (getElem?_eq_some_iff_bufRead_eq pl _ (hk.trans_le hp)).symm

end Sys2Proof
end

section
/-! SUPPORT. The commands without operands that are legal at any value of RUN (spec/46_control_commands.md R400,
R403, R404): the words turned away, and the state each command answers. -/

namespace Sys2Proof

namespace Machine

/-- Where a row fixes every bit, any other word with its `OP` is turned away (R138, R144). -/
theorem step_of_ne_matchWord {op : Opcode} {s : State} {cmd wdata : Word} {rest : List HostInput}
    (hmask : op.maskWord = BitVec.allOnes 32) (hport : s.port = .command cmd wdata :: rest)
    (hop : cmd.extractLsb' 28 4 = op.matchWord.extractLsb' 28 4) (hne : cmd ≠ op.matchWord) :
    step s = .next (turnedAway { s with port := rest }) := by
  have hmismatch : cmd &&& op.maskWord ≠ op.matchWord := by rwa [hmask, BitVec.and_allOnes]
  exact step_of_decode_error hport (decode_of_mismatch hop.symm hmismatch wdata)

theorem exec_nop (s : State) : exec .nop s = .next { s with rdata := 0#32 } := by
  rw [exec_eq, effectAt, nopEffect, respond_eq]

theorem exec_cntclr (s : State) :
    exec .cntclr s = .next { s with counters := Counters.reset, rdata := 0#32 } := by
  rw [exec_eq, effectAt, cntclrEffect, respond_eq, counterClear_eq]

theorem exec_reinit (s : State) :
    exec .reinit s = .next { s with
      dec := s.dec.enterSyncSearch, enc := s.enc.init, counters := Counters.reset, last := LastResult.reset
      sticky := Sticky.reset, rdata := 0#32 } := by
  rw [exec_eq, effectAt, reinitEffect, respond_eq, resultClear_eq, counterClear_eq, datapathInit_eq,
    State.withSticky]

end Machine

end Sys2Proof
end

section
/-! SUPPORT. The statements about the control commands, settled (spec/46_control_commands.md). -/

namespace Sys2Proof

open Machine

/-- Settles O12: the row of NOP fixes every bit, and its effect is the response alone. -/
theorem nopOnlyResponds : Obligations.NopOnlyResponds := by
  unfold Obligations.NopOnlyResponds
  exact ⟨decode_eq_ok_iff_eq_matchWord rfl fun _ _ => rfl, exec_nop⟩

/-- Settles O23: the row of CNTCLR fixes every bit, and its effect is the counter clear. -/
theorem cntclrClearsTheCounters : Obligations.CntclrClearsTheCounters := by
  unfold Obligations.CntclrClearsTheCounters
  refine ⟨decode_eq_ok_iff_eq_matchWord rfl fun _ _ => rfl, ?otherWord, exec_cntclr⟩
  case otherWord =>
    intro cmd wdata hop hne s hport
    exact step_of_ne_matchWord (op := .cntclr) rfl hport hop hne

/-- Settles O24: the row of REINIT fixes every bit, and its effect is the datapath initialisation with the three
clears of the records. -/
theorem reinitKeepsTheConfiguration : Obligations.ReinitKeepsTheConfiguration := by
  unfold Obligations.ReinitKeepsTheConfiguration
  refine ⟨decode_eq_ok_iff_eq_matchWord rfl fun _ _ => rfl, ?otherWord, exec_reinit⟩
  case otherWord =>
    intro cmd wdata hop hne s hport
    exact step_of_ne_matchWord (op := .reinit) rfl hport hop hne

end Sys2Proof
end

section
/-! SUPPORT. Who sets the sticky bits CMD_ERR and CFG_ERR: the commands a state makes illegal and the register
writes it rejects, each with its whole effect, and no other command (spec/60_exceptions.md R506, R507). -/

namespace Sys2Proof

namespace Machine

/-! ### Illegal words (R137, R144) -/

theorem row_mem_commandRows (op : Opcode) : (op, op.matchWord, op.maskWord) ∈ commandRows := by
  cases op <;> decide

/-- The words that match no row are the words the decoder turns away, whatever the operand word. -/
theorem matches_no_row_iff (cmd wdata : Word) :
    (∀ row ∈ commandRows, cmd &&& row.2.2 ≠ row.2.1) ↔ ∃ x, decode cmd wdata = .error x := by
  constructor
  · intro hno
    cases h : decode cmd wdata with
    | error x => exact ⟨x, rfl⟩
    | ok i => exact absurd (exists_decode_opcode_iff.mp ⟨i, h, rfl⟩) (hno _ (row_mem_commandRows i.opcode))
  · rintro ⟨x, hx⟩ row hrow hmatch
    rw [eq_of_mem_commandRows row hrow] at hmatch
    cases (decode_of_match hmatch wdata).symm.trans hx

variable (P : Params) {s : State} {i : Instr}

/-! ### What the shared operations do to the sticky bits -/

theorem streamByte_sticky (b : Byte) : (streamByte P b s).sticky = s.sticky := by
  by_cases h : (s.enc.store P b).ecount.toNat = encPLen s
  · rw [streamByte_of_eq P s b h]
  · rw [streamByte_of_ne P s b h, State.withEnc_sticky]

/-- While RUN = 1 a decoder command feeds bits and responds (R201, R202). -/
theorem exists_effectAt_eq_bitSteps (hi : isDecoderCommand i = true) (hrun : s.run = true) :
    ∃ bs, effectAt P i s = respond 0#32 (bitSteps P s bs) := by
  cases i with
  | dbit b => exact ⟨[b], effectAt_dbit_of_run P b hrun⟩
  | dbatch n d => exact ⟨batchBits n d, by rw [effectAt, dbatchEffect, dataCommand_of_run s _ hrun]⟩
  | nop | ebyte | emsg | einvoke | csrr | csrw | cntclr | reinit => cases hi

theorem effectAt_decoderCommand_cmdErr (hi : isDecoderCommand i = true) (hrun : s.run = true) :
    (effectAt P i s).sticky.cmdErr = s.sticky.cmdErr := by
  obtain ⟨bs, h⟩ := exists_effectAt_eq_bitSteps P hi hrun
  rw [h]; exact (bitSteps_frame P s bs).cmdErr

theorem effectAt_decoderCommand_cfgErr (hi : isDecoderCommand i = true) :
    (effectAt P i s).sticky.cfgErr = s.sticky.cfgErr := by
  cases hrun : s.run with
  | true =>
    obtain ⟨bs, h⟩ := exists_effectAt_eq_bitSteps P hi hrun
    rw [h]; exact (bitSteps_frame P s bs).cfgErr
  | false =>
    have hdata : isData i = true := by
      cases i with
      | dbit | dbatch => rfl
      | nop | ebyte | emsg | einvoke | csrr | csrw | cntclr | reinit => cases hi
    rw [effectAt_data_of_stopped P hdata hrun]; rfl

/-! ### Register writes (R507) -/

/-- The register writes a state rejects: to a configuration register while RUN = 1, or of an illegal depth. -/
def RejectedWrite (P : Params) (s : State) (a : BitVec 8) (v : Word) : Prop :=
  (s.run = true ∧ 1 ≤ a.toNat ∧ a.toNat ≤ 3) ∨
    (1 ≤ a.toNat ∧ a.toNat ≤ 2 ∧
      ((v.extractLsb' 12 4).toNat = 0 ∨ P.pMaxI < (v.extractLsb' 12 4).toNat))

variable {P} {a : BitVec 8} {v : Word}

theorem RejectedWrite.address (h : RejectedWrite P s a v) :
    a = 0x01#8 ∨ a = 0x02#8 ∨ a = 0x03#8 ∧ s.run = true := by
  simp only [← BitVec.toNat_inj, BitVec.toNat_ofNat]
  rcases h with ⟨hrun, hlow, hhigh⟩ | ⟨hlow, hhigh, -⟩
  · simp only [hrun, and_true]; omega
  · omega

/-- A rejected write does not meet the condition under which R59 and R61 store a value. -/
theorem RejectedWrite.not_storable (h : RejectedWrite P s a v) :
    ¬(s.run = false ∧ 1 ≤ (v.extractLsb' 12 4).toNat ∧ (v.extractLsb' 12 4).toNat ≤ P.pMaxI) := by
  rintro ⟨hstopped, hlow, hhigh⟩
  rcases h with ⟨hrun, -, -⟩ | ⟨-, -, hdepth⟩
  · cases hrun.symm.trans hstopped
  · omega

theorem effectAt_csrw_of_rejectedWrite (h : RejectedWrite P s a v) :
    effectAt P (.csrw a v) s = configRejected s := by
  obtain rfl | rfl | ⟨rfl, hrun⟩ := h.address
  · rw [effectAt_csrw_decCfg, if_neg h.not_storable]
  · rw [effectAt_csrw_encCfg, if_neg h.not_storable]
  · exact congrArg (respond 0#32) (if_pos hrun)

variable (P) in
/-- Everything a register write can do to the sticky bits: nothing, ConfigRejected, or the clearing of R64. -/
theorem csrWrite_sticky_cases (s : State) (a : BitVec 8) (v : Word) :
    (csrWrite P a v s).sticky = s.sticky ∨
      (RejectedWrite P s a v ∧ (csrWrite P a v s).sticky = s.sticky.record .configRejected) ∨
      (csrWrite P a v s).sticky = s.sticky.clear v := by
  rcases csrWrite_cases P s a v with ⟨-, -, -, h⟩ | ⟨-, -, h⟩ | ⟨-, -, -, h⟩ | ⟨-, -, -, h⟩ | ⟨-, -, h⟩ |
    ⟨hrejected, h⟩ | ⟨-, h⟩ | ⟨-, h⟩ <;> rw [h]
  any_goals exact .inl rfl
  · refine .inr (.inl ⟨hrejected.imp_right fun ⟨hlow, hhigh, hdepth⟩ => ⟨hlow, hhigh, ?_⟩, rfl⟩)
    rw [Bool.eq_false_iff, Ne, legalDepth_iff] at hdepth
    omega
  · exact .inr (.inr rfl)

/-- Only a rejected write sets CFG_ERR. -/
theorem rejectedWrite_of_effectAt_cfgErr (h : (effectAt P i s).sticky.cfgErr = true) :
    s.sticky.cfgErr = true ∨ ∃ a v, i = .csrw a v ∧ RejectedWrite P s a v := by
  cases i with
  | dbit | dbatch => exact .inl ((effectAt_decoderCommand_cfgErr P (by rfl)).symm.trans h)
  | ebyte | emsg | einvoke => exact .inl ((effectAt_encoderFrame P s (by rfl)).cfgErr.symm.trans h)
  | nop | csrr | cntclr => exact .inl h
  | reinit => cases h
  | csrw a v =>
    change (csrWrite P a v s).sticky.cfgErr = true at h
    rcases csrWrite_sticky_cases P s a v with hkept | ⟨hrejected, -⟩ | hcleared
    · exact .inl (hkept ▸ h)
    · exact .inr ⟨a, v, rfl, hrejected⟩
    · rw [hcleared] at h; exact .inl (Bool.and_eq_true_iff.mp h).1

/-! ### Illegal commands (R506) -/

/-- The commands a state makes illegal: a data command while RUN = 0, and an encoder command out of place (R145,
R506). -/
def IllegalHere (s : State) (i : Instr) : Prop :=
  (isData i = true ∧ s.run = false) ∨
    ((∃ b, i = .ebyte b) ∧ s.encCfg.msgMode = true ∧ s.enc.pending = true) ∨
    (i = .emsg ∧ (s.encCfg.msgMode = false ∨ s.enc.pending = true)) ∨
    (i = .einvoke ∧ s.encCfg.msgMode = false)

theorem IllegalHere.isData (h : IllegalHere s i) : isData i = true := by
  obtain ⟨hdata, -⟩ | ⟨⟨b, rfl⟩, -⟩ | ⟨rfl, -⟩ | ⟨rfl, -⟩ := h
  · exact hdata
  all_goals rfl

theorem effectAt_of_illegalHere (h : IllegalHere s i) : effectAt P i s = turnedAway s := by
  cases hrun : s.run with
  | false => rw [effectAt_data_of_stopped P h.isData hrun]; rfl
  | true =>
    obtain ⟨-, hstopped⟩ | ⟨⟨b, rfl⟩, hmode, hpend⟩ | ⟨rfl, hcause⟩ | ⟨rfl, hmode⟩ := h
    · cases hrun.symm.trans hstopped
    · rw [effectAt_ebyte_of_message P b hrun hmode, messageByte_of_pending P b hpend]; rfl
    · rw [effectAt_emsg_of_run P hrun, queueEffect_of_turnedAway hcause]
    · rw [effectAt_einvoke_of_run P hrun, invokeEffect_of_stream P hmode]; rfl

section Running

/-! While RUN = 1, each encoder command in turn. -/

variable (hrun : s.run = true)

include hrun

theorem illegalHere_of_ebyte_cmdErr {b : Byte} (h : (effectAt P (.ebyte b) s).sticky.cmdErr = true) :
    s.sticky.cmdErr = true ∨ IllegalHere s (.ebyte b) := by
  cases hmode : s.encCfg.msgMode with
  | false =>
    rw [effectAt_ebyte_of_stream P b hrun hmode, respond_eq, streamByte_sticky] at h
    exact .inl h
  | true =>
    cases hpend : s.enc.pending with
    | false =>
      rw [effectAt_ebyte_of_message P b hrun hmode, messageByte_of_not_pending P b hpend] at h
      exact .inl h
    | true => exact .inr (.inr (.inl ⟨⟨b, rfl⟩, hmode, hpend⟩))

theorem illegalHere_of_emsg_cmdErr (h : (effectAt P .emsg s).sticky.cmdErr = true) :
    s.sticky.cmdErr = true ∨ IllegalHere s .emsg := by
  by_cases hcause : s.encCfg.msgMode = false ∨ s.enc.pending = true
  · exact .inr (.inr (.inr (.inl ⟨rfl, hcause⟩)))
  · obtain ⟨hmode, hpend⟩ : s.encCfg.msgMode = true ∧ s.enc.pending = false := by simpa using hcause
    rw [effectAt_emsg_of_run P hrun, queueEffect_of_not_pending hmode hpend] at h
    exact .inl h

theorem illegalHere_of_einvoke_cmdErr (h : (effectAt P .einvoke s).sticky.cmdErr = true) :
    s.sticky.cmdErr = true ∨ IllegalHere s .einvoke := by
  rw [effectAt_einvoke_of_run P hrun] at h
  rcases invokeEffect_cases P s with ⟨hmode, -⟩ | ⟨-, -, -, hidle⟩ | ⟨-, -, -, hmalformed⟩ |
    ⟨-, -, -, hmismatch⟩ | ⟨-, -, -, hmessage⟩
  · exact .inr (.inr (.inr (.inr ⟨rfl, hmode⟩)))
  · rw [hidle] at h; exact .inl h
  · rw [hmalformed] at h; exact .inl h
  · rw [hmismatch] at h; exact .inl h
  · rw [hmessage] at h; exact .inl h

end Running

/-- Only a command the state makes illegal sets CMD_ERR. -/
theorem illegalHere_of_effectAt_cmdErr (h : (effectAt P i s).sticky.cmdErr = true) :
    s.sticky.cmdErr = true ∨ IllegalHere s i := by
  cases hstopped : isData i && !s.run with
  | true => exact .inr (.inl (by simpa using hstopped))
  | false =>
    have hrun : isData i = true → s.run = true := by simpa using hstopped
    cases i with
    | dbit | dbatch => exact .inl ((effectAt_decoderCommand_cmdErr P (by rfl) (hrun rfl)).symm.trans h)
    | ebyte b => exact illegalHere_of_ebyte_cmdErr (hrun rfl) h
    | emsg => exact illegalHere_of_emsg_cmdErr (hrun rfl) h
    | einvoke => exact illegalHere_of_einvoke_cmdErr (hrun rfl) h
    | nop | csrr | cntclr => exact .inl h
    | reinit => cases h
    | csrw a v =>
      change (csrWrite P a v s).sticky.cmdErr = true at h
      rcases csrWrite_sticky_cases P s a v with hkept | ⟨-, hrecorded⟩ | hcleared
      · exact .inl (hkept ▸ h)
      · rw [hrecorded] at h; exact .inl h
      · rw [hcleared] at h; exact .inl (Bool.and_eq_true_iff.mp h).1

end Machine

end Sys2Proof
end

section
/-! SUPPORT. The statements about IllegalCommand and ConfigRejected, settled (spec/60_exceptions.md R506, R507). -/

namespace Sys2Proof

open Machine

/-- Settles O7: the decoder's answer on the word tells an illegal word from a command, and a command is turned away
where the state makes it illegal and nowhere else. -/
theorem illegalCommandExactlyWhen : Obligations.IllegalCommandExactlyWhen := by
  unfold Obligations.IllegalCommandExactlyWhen
  refine ⟨rfl, fun s t cmd wdata rest hport hstep => ?_⟩
  rw [matches_no_row_iff cmd wdata]
  cases hdecode : decode cmd wdata with
  | error x =>
    rw [step_of_decode_error hport hdecode] at hstep
    exact ⟨fun _ => (Host.Outcome.next.inj hstep).symm, fun _ _ => .inl ⟨x, rfl⟩⟩
  | ok i =>
    rw [step_of_decode_ok hport hdecode] at hstep
    obtain rfl := exec_next hstep
    refine ⟨?noEffect, fun hclear hset => ?cause⟩
    case noEffect =>
      rintro (⟨x, hx⟩ | ⟨j, hj, hillegal⟩)
      · cases hx
      · obtain rfl := Except.ok.inj hj
        exact effectAt_of_illegalHere (s := { s with port := rest }) hillegal
    case cause =>
      rcases illegalHere_of_effectAt_cmdErr hset with hbefore | hillegal
      · cases hclear.symm.trans hbefore
      · exact .inr ⟨i, rfl, hillegal⟩

/-- Settles O22: a write the state rejects has the effect of ConfigRejected alone, and no other command sets
CFG_ERR. -/
theorem configRejectedExactlyWhen : Obligations.ConfigRejectedExactlyWhen := by
  unfold Obligations.ConfigRejectedExactlyWhen
  refine ⟨rfl, fun s a v hrejected => ?noEffect, fun s t i hexec hclear hset => ?cause⟩
  case noEffect => rw [exec_eq, effectAt_csrw_of_rejectedWrite (P := thisCore) hrejected]
  case cause =>
    obtain rfl := exec_next hexec
    exact (rejectedWrite_of_effectAt_cfgErr hset).resolve_left (by simp [hclear])

end Sys2Proof
end

section
/-! SUPPORT. The decoder and the encoder undo each other, row by row: what the operand fields of an encoded command
read as, and which bits of a word the fields of its command are (spec/30_encoding.md R132 to R137). -/

namespace Sys2Proof

/-! ### An encoded command read again -/

/-- The command word of a command matches its row (R137). -/
theorem encode_match (i : Instr) : (encode i).1 &&& i.opcode.maskWord = i.opcode.matchWord := by
  have hrow : Laws.EncodesIntoItsRow.Statement i := by
    open Laws.EncodesIntoItsRow in
    cases i with
    | nop => exact nop
    | dbit b => exact dbit b
    | dbatch n d => exact dbatch n d
    | ebyte b => exact ebyte b
    | emsg => exact emsg
    | einvoke => exact einvoke
    | csrr a => exact csrr a
    | csrw a v => exact csrw a v
    | cntclr => exact cntclr
    | reinit => exact reinit
  exact hrow.1

/-- A byte operand at the low end of a row's word reads as itself. -/
theorem extractLsb'_or_byte (row : Word) (h : row.extractLsb' 0 8 = 0#8) (b : Byte) :
    (row ||| (0#24 ++ b)).extractLsb' 0 8 = b := by
  rw [BitVec.extractLsb'_or, h, BitVec.zero_or]
  exact BitVec.extractLsb'_append_eq_right

/-- The fields of an encoded batch (R132, R133). -/
theorem extractLsb'_encode_dbatch (n : Nat) (d : BitVec 16) :
    (encode (.dbatch n d)).1.extractLsb' 24 4 = BitVec.ofNat 4 (n - 1) ∧
      (encode (.dbatch n d)).1.extractLsb' 0 16 = d := by
  constructor
  · change (0x20000000#32 ||| (0#4 ++ BitVec.ofNat 4 (n - 1) ++ 0#8 ++ d)).extractLsb' 24 4 = _
    rw [BitVec.extractLsb'_or, BitVec.extractLsb'_append_eq_of_le (by decide),
      BitVec.extractLsb'_append_eq_of_le (by decide)]
    exact (congrArg _ BitVec.extractLsb'_append_eq_right).trans BitVec.zero_or
  · change (0x20000000#32 ||| (0#4 ++ BitVec.ofNat 4 (n - 1) ++ 0#8 ++ d)).extractLsb' 0 16 = _
    rw [BitVec.extractLsb'_or, BitVec.extractLsb'_append_eq_right]
    exact BitVec.zero_or

/-- The operands read from an encoded command are its own, for CSRW with its own operand word (R133 to R135). -/
theorem operands_encode {i : Instr} (hwf : i.wellFormed = true) {wdata : Word}
    (hdata : ∀ a v, i = .csrw a v → wdata = v) : i.opcode.operands (encode i).1 wdata = i := by
  cases i with
  | nop | emsg | einvoke | cntclr | reinit => rfl
  | dbit b => cases b <;> rfl
  | dbatch n d =>
    obtain ⟨hn, hd⟩ := extractLsb'_encode_dbatch n d
    change Instr.dbatch _ _ = _
    have hlen : 1 ≤ n ∧ n ≤ 16 := by simpa [Instr.wellFormed] using hwf
    rw [hn, hd, BitVec.toNat_ofNat, Nat.mod_eq_of_lt (by omega), Nat.sub_add_cancel hlen.1]
  | ebyte b => exact congrArg Instr.ebyte (extractLsb'_or_byte 0x30000000#32 rfl b)
  | csrr a => exact congrArg Instr.csrr (extractLsb'_or_byte 0x60000000#32 rfl a)
  | csrw a v =>
    rw [hdata a v rfl]
    exact congrArg (Instr.csrw · v) (extractLsb'_or_byte 0x70000000#32 rfl a)

/-- A well-formed command is read from its own command word, for CSRW with its own operand word (R137). -/
theorem decode_encode {i : Instr} (hwf : i.wellFormed = true) {wdata : Word}
    (hdata : ∀ a v, i = .csrw a v → wdata = v) : decode (encode i).1 wdata = .ok i :=
  decode_eq_ok_iff.mpr ⟨i.opcode, encode_match i, operands_encode hwf hdata⟩

/-! ### A decoded command encoded again -/

/-- The operand fields of a command are the bits of its word outside the mask (R132, R137). -/
theorem fieldBits_operands {op : Opcode} (cmd wdata : Word) :
    (op.operands cmd wdata).fieldBits = cmd &&& ~~~op.maskWord := by
  have hbyte : 0#24 ++ cmd.extractLsb' 0 8 = cmd &&& 0xFF#32 := by
    apply BitVec.eq_of_getLsbD_eq
    intro k hk
    simp only [BitVec.getLsbD_append, BitVec.getLsbD_extractLsb', BitVec.getLsbD_and]
    interval_cases k <;> simp
  cases op with
  | nop | emsg | einvoke | cntclr | reinit => exact BitVec.and_zero.symm
  | ebyte | csrr | csrw => exact hbyte
  | dbit =>
    change 0#31 ++ BitVec.ofBool (cmd.getLsbD 0) = cmd &&& 0x1#32
    apply BitVec.eq_of_getLsbD_eq
    intro k hk
    simp only [BitVec.getLsbD_append, BitVec.getLsbD_and]
    interval_cases k <;> simp
  | dbatch =>
    change 0#4 ++ BitVec.ofNat 4 ((cmd.extractLsb' 24 4).toNat + 1 - 1) ++ 0#8 ++ cmd.extractLsb' 0 16 =
      cmd &&& 0x0F00FFFF#32
    rw [Nat.add_sub_cancel, BitVec.ofNat_toNat, BitVec.setWidth_eq]
    apply BitVec.eq_of_getLsbD_eq
    intro k hk
    simp only [BitVec.getLsbD_append, BitVec.getLsbD_extractLsb', BitVec.getLsbD_and]
    interval_cases k <;> simp

/-- A decoded command encodes to the word it was read from: the row's own bits and the bits of the fields (R137). -/
theorem encode_of_decode {cmd wdata : Word} {i : Instr} (h : decode cmd wdata = .ok i) : (encode i).1 = cmd := by
  obtain ⟨op, hmatch, rfl⟩ := decode_eq_ok_iff.mp h
  change (op.operands cmd wdata).opcode.matchWord ||| (op.operands cmd wdata).fieldBits = cmd
  rw [Opcode.operands_opcode, fieldBits_operands, ← hmatch, ← BitVec.and_or_distrib_left, BitVec.or_not_self,
    BitVec.and_allOnes]

end Sys2Proof
end

section
/-! SUPPORT. The statements about the round trip of command words and the totality of the decoder, settled
(spec/30_encoding.md). -/

namespace Sys2Proof

open Machine

/-- Settles O4: the command word matches the command's own row, whose fields hold the command's operands. -/
theorem decodeOfEncode : Obligations.DecodeOfEncode := by
  unfold Obligations.DecodeOfEncode
  refine fun i hwf => ⟨decode_encode hwf ?own, fun hne wdata => decode_encode hwf fun a v h => absurd h (hne a v)⟩
  case own => rintro a v rfl; rfl

/-- Settles O5: the row's bits and the bits of the fields make up the word. -/
theorem encodeOfDecode : Obligations.EncodeOfDecode := by
  unfold Obligations.EncodeOfDecode
  intro cmd wdata i h
  refine ⟨?wellFormed, encode_of_decode h, ?operandWord⟩
  all_goals obtain ⟨op, -, rfl⟩ := decode_eq_ok_iff.mp h
  case wellFormed => exact op.operands_wellFormed cmd wdata
  case operandWord => rw [Opcode.operands_opcode]; cases op <;> rfl

/-- Settles O9: the row is the one of the command read, and the rows are disjoint. -/
theorem everyWordIsOneRowOrIllegal : Obligations.EveryWordIsOneRowOrIllegal := by
  unfold Obligations.EveryWordIsOneRowOrIllegal
  refine ⟨fun cmd wdata => ?_, fun s => ⟨_, step_eq s⟩⟩
  cases h : decode cmd wdata with
  | error x => exact .inr ⟨(matches_no_row_iff cmd wdata).mpr ⟨x, h⟩, x, rfl⟩
  | ok i =>
    have hmatch := exists_decode_opcode_iff.mp ⟨i, h, rfl⟩
    have hmem := row_mem_commandRows i.opcode
    exact .inl ⟨_, hmem, hmatch, ⟨i, rfl, rfl⟩, fun row' hrow' hmatch' =>
      wordSelectsItsRow.2 row' hrow' _ hmem cmd hmatch' hmatch⟩

/-- Settles O1: thirteen words read by evaluating the decoder. -/
theorem writtenOutWordsDecode : Obligations.WrittenOutWordsDecode := by
  unfold Obligations.WrittenOutWordsDecode
  decide

/-- Settles O8: a step serves the transaction it takes from the port, and every command of this hardware is that of
the parametric core. -/
theorem stepRunsTheDecodedCommand : Obligations.StepRunsTheDecodedCommand := by
  unfold Obligations.StepRunsTheDecodedCommand
  refine ⟨fun s cmd wdata rest i => step_of_decode_ok, fun s rest i hwf hport => ?encoded,
    fun s cmd wdata i h => ?tableWord, exec_eq, execAll_eq, congrFun step_eq_stepAt⟩
  case encoded => exact step_of_decode_ok hport (decodeOfEncode i hwf).1
  case tableWord =>
    have hcmd := cmd.isLt
    have hdata := wdata.isLt
    have hfetch : transactionOf 64 (cmd.toNat + wdata.toNat * 2 ^ 32) = (cmd, wdata) := by
      refine Prod.ext (BitVec.eq_of_toNat_eq ?_) (BitVec.eq_of_toNat_eq ?_) <;>
        simp only [transactionOf, BitVec.toNat_ofNat] <;> omega
    rw [State.withFetchWord, hfetch]
    exact step_of_decode_ok (rest := s.port) rfl h

end Sys2Proof
end

section
/-! SUPPORT. The invariant by the parts of the state it speaks of, and how each command keeps its part: the decoder
and its results by a bit, the encoder by an encoder command, all of it by a register write (spec/10_state.md
sections 2 to 7). -/

namespace Sys2Proof

namespace Machine

/-! ### The parts of the invariant -/

/-- A depth is legal for some core (R58, R60). -/
def DepthInv (depth : BitVec 4) : Prop := 1 ≤ depth.toNat ∧ depth.toNat ≤ Config.pMaxI

/-- What the invariant says of the decoder's position (R44, R45, R209, R210). -/
structure PositionInv (run : Bool) (depth : BitVec 4) (d : Decoder) : Prop where
  searching : d.dstate = .syncSearch → d.bitcnt = 0#3 ∧ d.bytecnt = 0#11
  inBuffer : d.bytecnt.toNat < Config.cwSize
  accumulating : run = true → d.dstate = .codeword → d.bytecnt.toNat < depth.toNat * 255

/-- What the invariant says of the encoder in stream mode (R251, R252). -/
def StreamInv (run : Bool) (c : EncCfg) (e : Encoder) : Prop :=
  run = true → c.msgMode = false → e.ecount.toNat < c.depth.toNat * 223 ∧ e.pending = false

/-- What the invariant says of the last-decode results (R47, R220, R223, R343). -/
structure ResultInv (l : LastResult) : Prop where
  noResult : l.valid = false → l = LastResult.reset
  verdicts : l.fillExh = true → l.fillFast = true
  mask : l.valid = true → (l.ok = true ↔ l.failMask = 0#8)

/-- What the invariant says of the published messages (R51). -/
def MessageInv (rx : List (List Byte)) : Prop :=
  ∀ p ∈ rx, ∃ n, 1 ≤ n ∧ n ≤ Config.pMaxI ∧ p.length = n * 223

theorem coreInv_iff {s : State} :
    CoreInv s ↔ DepthInv s.decCfg.depth ∧ DepthInv s.encCfg.depth ∧ PositionInv s.run s.decCfg.depth s.dec ∧
      StreamInv s.run s.encCfg s.enc ∧ ResultInv s.last ∧ MessageInv s.rx := by
  constructor
  · exact fun h => ⟨h.decDepth, h.encDepth, ⟨h.searching, h.inBuffer, h.accumulating⟩, h.streaming,
      ⟨h.noResult, h.verdicts, h.mask⟩, h.messages⟩
  · exact fun ⟨hdec, henc, hpos, hstream, hresult, hmessage⟩ => ⟨hdec, henc, hpos.searching, hpos.inBuffer,
      hpos.accumulating, hstream, hresult.noResult, hresult.verdicts, hresult.mask, hmessage⟩

/-- The five counters are within `W` bits (R48). -/
def Counters.Fit (W : Nat) (c : Counters) : Prop :=
  c.framesReceived.toNat < 2 ^ W ∧ c.framesDecoded.toNat < 2 ^ W ∧ c.subframesDecoded.toNat < 2 ^ W ∧
    c.fillFramesDecoded.toNat < 2 ^ W ∧ c.framesTransmitted.toNat < 2 ^ W

theorem fitsWidths_iff {P : Params} {s : State} :
    FitsWidths P s ↔ s.counters.Fit P.cntWidth ∧ s.enc.ecount.toNat < 2 ^ P.ecntWidth := by
  constructor
  · exact fun h => ⟨⟨h.framesReceived, h.framesDecoded, h.subframesDecoded, h.fillFramesDecoded,
      h.framesTransmitted⟩, h.ecount⟩
  · exact fun ⟨⟨hrx, hdec, hsub, hfill, htx⟩, hcount⟩ => ⟨hrx, hdec, hsub, hfill, htx, hcount⟩

theorem FitsWidths.of_eq {P : Params} {s t : State} (h : FitsWidths P s) (hcounters : t.counters = s.counters)
    (hcount : t.enc.ecount = s.enc.ecount) : FitsWidths P t := by
  rwa [fitsWidths_iff, hcounters, hcount, ← fitsWidths_iff]

/-- The invariant at any parameters: `CoreInv`, and the counts within their widths. -/
def InvAt (P : Params) (s : State) : Prop := CoreInv s ∧ FitsWidths P s

theorem invAt_thisCore {s : State} : InvAt thisCore s ↔ CoreInv s := and_iff_left (fitsWidths_thisCore s)

/-! ### What the values after a reset have -/

theorem depthInv_one : DepthInv 1#4 := by unfold DepthInv; decide

theorem resultInv_reset : ResultInv LastResult.reset := ⟨fun _ => rfl, by decide, by decide⟩

theorem countersFit_reset (W : Nat) : Counters.reset.Fit W := by
  have h : (0#Config.cntWidth).toNat < 2 ^ W := Nat.two_pow_pos W
  exact ⟨h, h, h, h, h⟩

theorem positionInv_enterSyncSearch (run : Bool) (depth : BitVec 4) (d : Decoder) :
    PositionInv run depth d.enterSyncSearch :=
  ⟨fun _ => ⟨rfl, rfl⟩, (by decide : (0#11).toNat < Config.cwSize), fun _ h => by cases h⟩

theorem streamInv_init {run : Bool} {c : EncCfg} {e : Encoder} (hdepth : DepthInv c.depth) :
    StreamInv run c e.init :=
  fun _ _ => ⟨Nat.mul_pos hdepth.1 (by decide), rfl⟩

theorem invAt_resetWith (P : Params) (sync : Word) : InvAt P (State.resetWith sync) :=
  ⟨coreInv_iff.mpr ⟨depthInv_one, depthInv_one, positionInv_enterSyncSearch _ _ Decoder.reset,
    fun h => (by cases h), resultInv_reset, fun _ h => by cases h⟩,
    fitsWidths_iff.mpr ⟨countersFit_reset _, Nat.two_pow_pos _⟩⟩

variable (P : Params) {s : State}

/-! ### The counts (R14, R48, R49) -/

theorem inc_cnt_lt (c : BitVec Config.cntWidth) : (inc P.cntWidth c).toNat < 2 ^ P.cntWidth :=
  toNat_inc_lt P.cntWidth_legal.2 c

theorem iterate_inc_cnt_lt {c : BitVec Config.cntWidth} (h : c.toNat < 2 ^ P.cntWidth) (n : Nat) :
    ((inc P.cntWidth)^[n] c).toNat < 2 ^ P.cntWidth := by
  cases n with
  | zero => exact h
  | succ n => rw [Function.iterate_succ_apply']; exact inc_cnt_lt P _

theorem ite_inc_cnt_lt (moves : Bool) {c : BitVec Config.cntWidth} (h : c.toNat < 2 ^ P.cntWidth) :
    (if moves then inc P.cntWidth c else c).toNat < 2 ^ P.cntWidth := by
  cases moves with
  | true => exact inc_cnt_lt P c
  | false => exact h

/-! ### One decode attempt -/

/-- An exhaustively empty payload is empty to the fast detector too (R343). -/
theorem fillFast_of_fillExhaustive {pl : Vector Byte Config.plSize} {p : Nat} (hp : 2 ≤ p)
    (h : fillExhaustive pl p = true) : fillFast pl = true := by
  have hzero := (fillExhaustive_iff pl p).mp h
  exact (fillFast_iff pl).mpr ⟨hzero 0 (by omega), hzero 1 (by omega)⟩

/-- An attempt succeeds iff its failure mask is 0 (R220, R223). -/
theorem receivedAttempt_ok_iff_failMask (hdepth : s.decCfg.depth.toNat ≤ 8) :
    (receivedAttempt P s).ok = true ↔ (receivedAttempt P s).failMask = 0#8 := by
  rw [receivedAttempt_ok P hdepth]
  constructor
  · intro hok
    refine BitVec.eq_of_getLsbD_eq fun i hi => BitVec.getLsbD_zero ▸ Bool.eq_false_iff.mpr fun hbit => ?_
    obtain ⟨hlt, hnone⟩ := (receivedAttempt_failMask P hdepth hi).mp hbit
    exact hok i hlt hnone
  · intro hmask i hi hnone
    have hbit := (receivedAttempt_failMask P hdepth (Nat.lt_of_lt_of_le hi hdepth)).mpr ⟨hi, hnone⟩
    simp [hmask] at hbit

/-- The results of an attempt are consistent (R220, R223, R343). -/
theorem resultInv_decodeFrame (hdepth : DepthInv s.decCfg.depth) : ResultInv (decodeFrame P s).last := by
  have hunit : 2 ≤ decPLen s := Nat.le_trans (by decide) (Nat.mul_le_mul_right 223 hdepth.1)
  rw [decodeFrame_eq_of_receivedAttempt]
  exact ⟨fun h => (by cases h), fillFast_of_fillExhaustive hunit, fun _ => receivedAttempt_ok_iff_failMask P hdepth.2⟩

/-- An attempt publishes at most one whole payload (R221). -/
theorem messageInv_decodeFrame (hdepth : DepthInv s.decCfg.depth) (h : MessageInv s.rx) :
    MessageInv (decodeFrame P s).rx := by
  rw [decodeFrame_eq_of_receivedAttempt]
  dsimp only
  split
  · intro p hp
    rcases List.mem_append.mp hp with hold | hnew
    · exact h p hold
    · rw [List.mem_singleton.mp hnew]
      exact ⟨_, hdepth.1, hdepth.2, length_take_toList _ (pLen_le hdepth.2)⟩
  · exact h

theorem countersFit_decodeFrame (h : s.counters.Fit P.cntWidth) :
    (decodeFrame P s).counters.Fit P.cntWidth := by
  obtain ⟨hrx, hdec, hsub, hfill, htx⟩ := h
  rw [decodeFrame_eq_of_receivedAttempt]
  refine ⟨hrx, ite_inc_cnt_lt P _ hdec, ?_, ite_inc_cnt_lt P _ hfill, htx⟩
  change (receivedAttempt P s).subframes.toNat < _
  rw [receivedAttempt, runAttempt_eq, attemptUpTo_subframes]
  exact iterate_inc_cnt_lt P hsub _

/-! ### The decoder's commands -/

/-- While the codeword fits the buffer, one more byte does not wrap the byte count (R44, log 10). -/
theorem toNat_bytecnt_succ {d : Decoder} (h : d.bytecnt.toNat < Config.cwSize) :
    (d.bytecnt + 1#11).toNat = d.bytecnt.toNat + 1 := by
  have hlt : d.bytecnt.toNat < 2040 := h
  rw [BitVec.toNat_add]
  exact Nat.mod_eq_of_lt (by change d.bytecnt.toNat + 1 < 2048; omega)

/-- A bit keeps the position in range (R203, R208, R209). -/
theorem positionInv_bitStep (hrun : s.run = true) (hdepth : DepthInv s.decCfg.depth)
    (h : PositionInv s.run s.decCfg.depth s.dec) (b : Bool) :
    PositionInv s.run s.decCfg.depth (bitStep P s b).dec := by
  obtain ⟨hlow, hhigh⟩ := hdepth
  rcases bitStep_cases P s b with ⟨-, -, hbit⟩ | ⟨-, -, hbit⟩ | ⟨hd, -, hbit⟩ | ⟨hd, -, hpart, hbit⟩ |
    ⟨-, -, -, hbit⟩ <;> rw [hbit]
  · exact ⟨h.searching, h.inBuffer, h.accumulating⟩
  · exact ⟨fun hd => (by cases hd), (by decide : (0#11).toNat < Config.cwSize), fun _ _ => Nat.mul_pos hlow (by decide)⟩
  · exact ⟨fun hd' => (by cases hd.symm.trans hd'), h.inBuffer, h.accumulating⟩
  · have hcount : (storeByte (shifted s b)).dec.bytecnt.toNat = s.dec.bytecnt.toNat + 1 :=
      toNat_bytecnt_succ h.inBuffer
    have hne : s.dec.bytecnt.toNat + 1 ≠ s.decCfg.depth.toNat * 255 := hcount ▸ hpart
    have hlt : (storeByte (shifted s b)).dec.bytecnt.toNat < s.decCfg.depth.toNat * 255 := by
      have := h.accumulating hrun hd
      omega
    exact ⟨fun hd' => (by cases hd.symm.trans hd'), Nat.lt_of_lt_of_le hlt (cwLen_le hhigh), fun _ _ => hlt⟩
  · exact positionInv_enterSyncSearch ..

theorem bitStep_last_rx (b : Bool) :
    ((bitStep P s b).last = s.last ∧ (bitStep P s b).rx = s.rx) ∨
      ((bitStep P s b).last = (decodeFrame P (storeByte (shifted s b))).last ∧
        (bitStep P s b).rx = (decodeFrame P (storeByte (shifted s b))).rx) := by
  rcases bitStep_cases P s b with ⟨-, -, h⟩ | ⟨-, -, h⟩ | ⟨-, -, h⟩ | ⟨-, -, -, h⟩ | ⟨-, -, -, h⟩ <;> rw [h]
  case inr.inr.inr.inr => exact .inr ⟨rfl, rfl⟩
  all_goals exact .inl ⟨rfl, rfl⟩

theorem countersFit_bitStep (h : s.counters.Fit P.cntWidth) (b : Bool) :
    (bitStep P s b).counters.Fit P.cntWidth := by
  rcases bitStep_cases P s b with ⟨-, -, hbit⟩ | ⟨-, -, hbit⟩ | ⟨-, -, hbit⟩ | ⟨-, -, -, hbit⟩ | ⟨-, -, -, hbit⟩ <;>
    rw [hbit]
  case inr.inl =>
    obtain ⟨-, hdec, hsub, hfill, htx⟩ := h
    exact ⟨inc_cnt_lt P _, hdec, hsub, hfill, htx⟩
  case inr.inr.inr.inr => exact countersFit_decodeFrame (s := storeByte (shifted s b)) P h
  all_goals exact h

/-- A bit keeps the invariant while RUN = 1 (R203). -/
theorem invAt_bitStep (hrun : s.run = true) (h : InvAt P s) (b : Bool) : InvAt P (bitStep P s b) := by
  obtain ⟨hcore, hfit⟩ := h
  obtain ⟨hdec, henc, hpos, hstream, hresult, hmessage⟩ := coreInv_iff.mp hcore
  obtain ⟨hcount, hecount⟩ := fitsWidths_iff.mp hfit
  have hframe := bitStep_frame P s b
  constructor
  · rw [coreInv_iff, hframe.run, hframe.decCfg, hframe.encCfg, hframe.enc]
    refine ⟨hdec, henc, positionInv_bitStep P hrun hdec hpos b, hstream, ?_⟩
    rcases bitStep_last_rx P (s := s) b with ⟨hlast, hrx⟩ | ⟨hlast, hrx⟩ <;> rw [hlast, hrx]
    · exact ⟨hresult, hmessage⟩
    · exact ⟨resultInv_decodeFrame (s := storeByte (shifted s b)) P hdec,
        messageInv_decodeFrame (s := storeByte (shifted s b)) P hdec hmessage⟩
  · rw [fitsWidths_iff, hframe.enc]
    exact ⟨countersFit_bitStep P hcount b, hecount⟩

/-- Bits keep RUN = 1 and the invariant (R202). -/
theorem invAt_bitSteps (hrun : s.run = true) (h : InvAt P s) (bs : List Bool) : InvAt P (bitSteps P s bs) :=
  (bitSteps_induction P s (Q := fun t => t.run = true ∧ InvAt P t)
    (fun t b ht => ⟨(bitStep_frame P t b).run.trans ht.1, invAt_bitStep P ht.1 ht.2 b⟩) bs ⟨hrun, h⟩).2

/-! ### The encoder's commands -/

/-- What an encoder command may change, with its own part of the invariant. -/
theorem invAt_of_encoderFrame {t : State} (h : InvAt P s) (hframe : EncoderFrame s t)
    (hstream : StreamInv s.run s.encCfg t.enc) (hcount : t.enc.ecount.toNat < 2 ^ P.ecntWidth)
    (htx : t.counters.framesTransmitted.toNat < 2 ^ P.cntWidth) : InvAt P t := by
  obtain ⟨hcore, hfit⟩ := h
  obtain ⟨hdec, henc, hpos, -, hresult, hmessage⟩ := coreInv_iff.mp hcore
  constructor
  · rw [coreInv_iff, hframe.run, hframe.decCfg, hframe.encCfg, hframe.dec, hframe.last, hframe.rx]
    exact ⟨hdec, henc, hpos, hstream, hresult, hmessage⟩
  · rw [fitsWidths_iff, Counters.Fit, hframe.framesReceived, hframe.framesDecoded, hframe.subframesDecoded,
      hframe.fillFramesDecoded]
    exact ⟨⟨hfit.framesReceived, hfit.framesDecoded, hfit.subframesDecoded, hfit.fillFramesDecoded, htx⟩, hcount⟩

/-- A stream-mode byte that does not complete the payload unit leaves room for more (R251). -/
theorem streamInv_store (b : Byte) (h : StreamInv s.run s.encCfg s.enc)
    (hne : (s.enc.store P b).ecount.toNat ≠ encPLen s) : StreamInv s.run s.encCfg (s.enc.store P b) := by
  intro hrun hmode
  obtain ⟨hlt, hpend⟩ := h hrun hmode
  have hle : (s.enc.store P b).ecount.toNat ≤ s.enc.ecount.toNat + 1 :=
    (toNat_inc P.ecntWidth_legal.2 _).trans_le (Nat.mod_le ..)
  have hle' : (s.enc.store P b).ecount.toNat ≤ s.encCfg.depth.toNat * 223 := by omega
  exact ⟨Nat.lt_of_le_of_ne hle' hne, hpend⟩

theorem streamInv_streamByte (hdepth : DepthInv s.encCfg.depth) (h : StreamInv s.run s.encCfg s.enc) (b : Byte) :
    StreamInv s.run s.encCfg (streamByte P b s).enc := by
  by_cases hfull : (s.enc.store P b).ecount.toNat = encPLen s
  · rw [streamByte_of_eq P s b hfull]
    exact fun hrun hmode => ⟨Nat.mul_pos hdepth.1 (by decide), (h hrun hmode).2⟩
  · rw [streamByte_of_ne P s b hfull]
    exact streamInv_store P b h hfull

variable {i : Instr}

theorem streamInv_effectAt (hi : isEncoderCommand i = true) (hdepth : DepthInv s.encCfg.depth)
    (h : StreamInv s.run s.encCfg s.enc) : StreamInv s.run s.encCfg (effectAt P i s).enc := by
  intro hrun hmode
  refine (?_ : StreamInv s.run s.encCfg _) hrun hmode
  cases i with
  | ebyte b =>
    rw [effectAt_ebyte_of_stream P b hrun hmode]
    exact streamInv_streamByte P hdepth h b
  | emsg => rw [effectAt_emsg_of_run P hrun, queueEffect_of_turnedAway (.inl hmode)]; exact h
  | einvoke => rw [effectAt_einvoke_of_run P hrun, invokeEffect_of_stream P hmode]; exact h
  | nop | dbit | dbatch | csrr | csrw | cntclr | reinit => cases hi

theorem isData_of_isEncoderCommand (hi : isEncoderCommand i = true) : isData i = true := by
  cases i with
  | ebyte | emsg | einvoke => rfl
  | nop | dbit | dbatch | csrr | csrw | cntclr | reinit => cases hi

/-- How the byte count can move: not at all, back to 0, or on by one, wrapping or not (R251, R253, R255). -/
def CountMoves (P : Params) (e e' : Encoder) : Prop :=
  e'.ecount = e.ecount ∨ e'.ecount = 0#16 ∨ e'.ecount = inc P.ecntWidth e.ecount ∨
    e'.ecount = sat P.ecntWidth e.ecount

/-- Nothing is emitted and no count moves, or, while RUN = 1, one frame of a payload is emitted and counted
(R256, R263, R265). -/
def EmitsAtMostOneFrame (P : Params) (s t : State) : Prop :=
  (t.tx = s.tx ∧ t.counters = s.counters) ∨
    (s.run = true ∧ t.enc.started = true ∧ ∃ p, t.tx = s.tx ++ frameOf P s p ∧
      t.counters = { s.counters with framesTransmitted := inc P.cntWidth s.counters.framesTransmitted })

/-- Everything an encoder command can do to the TX stream, the counters and the byte count (R251 to R256). -/
theorem effectAt_encoder_cases (hi : isEncoderCommand i = true) :
    EmitsAtMostOneFrame P s (effectAt P i s) ∧ CountMoves P s.enc (effectAt P i s).enc := by
  rcases Bool.eq_false_or_eq_true s.run with hrun | hrun
  case inr =>
    rw [effectAt_data_of_stopped P (isData_of_isEncoderCommand hi) hrun]
    exact ⟨.inl ⟨rfl, rfl⟩, .inl rfl⟩
  case inl =>
    cases i with
    | ebyte b =>
      cases hmode : s.encCfg.msgMode with
      | false =>
        rw [effectAt_ebyte_of_stream P b hrun hmode]
        by_cases hfull : (s.enc.store P b).ecount.toNat = encPLen s
        · rw [streamByte_of_eq P s b hfull]
          exact ⟨.inr ⟨hrun, rfl, _, rfl, rfl⟩, .inr (.inl rfl)⟩
        · rw [streamByte_of_ne P s b hfull]
          exact ⟨.inl ⟨rfl, rfl⟩, .inr (.inr (.inl rfl))⟩
      | true =>
        rw [effectAt_ebyte_of_message P b hrun hmode]
        rcases messageByte_cases P b s with ⟨-, h⟩ | ⟨-, h⟩ <;> rw [h]
        · exact ⟨.inl ⟨rfl, rfl⟩, .inl rfl⟩
        · exact ⟨.inl ⟨rfl, rfl⟩, .inr (.inr (.inr rfl))⟩
    | emsg =>
      rw [effectAt_emsg_of_run P hrun, queueEffect]
      split <;> exact ⟨.inl ⟨rfl, rfl⟩, .inl rfl⟩
    | einvoke =>
      rw [effectAt_einvoke_of_run P hrun]
      rcases invokeEffect_cases P s with ⟨-, h⟩ | ⟨-, -, -, h⟩ | ⟨-, -, -, h⟩ | ⟨-, -, -, h⟩ | ⟨-, -, -, h⟩ <;> rw [h]
      · exact ⟨.inl ⟨rfl, rfl⟩, .inl rfl⟩
      · exact ⟨.inr ⟨hrun, rfl, _, rfl, rfl⟩, .inl rfl⟩
      · exact ⟨.inl ⟨rfl, rfl⟩, .inl rfl⟩
      · exact ⟨.inl ⟨rfl, rfl⟩, .inr (.inl rfl)⟩
      · exact ⟨.inr ⟨hrun, rfl, _, rfl, rfl⟩, .inr (.inl rfl)⟩
    | nop | dbit | dbatch | csrr | csrw | cntclr | reinit => cases hi

theorem CountMoves.lt {e e' : Encoder} (h : CountMoves P e e') (hlt : e.ecount.toNat < 2 ^ P.ecntWidth) :
    e'.ecount.toNat < 2 ^ P.ecntWidth := by
  have hpos := Nat.two_pow_pos P.ecntWidth
  rcases h with h | h | h | h <;> rw [h]
  · exact hlt
  · exact hpos
  · exact toNat_inc_lt P.ecntWidth_legal.2 _
  · rw [toNat_sat P.ecntWidth_legal.2]; omega

/-- An encoder command keeps the invariant (R251 to R255). -/
theorem invAt_encoderCommand (hi : isEncoderCommand i = true) (h : InvAt P s) : InvAt P (effectAt P i s) := by
  obtain ⟨hcore, hfit⟩ := h
  obtain ⟨hemits, hmoves⟩ := effectAt_encoder_cases P (s := s) hi
  refine invAt_of_encoderFrame P ⟨hcore, hfit⟩ (effectAt_encoderFrame P s hi)
    (streamInv_effectAt P hi hcore.encDepth hcore.streaming) (hmoves.lt P hfit.ecount) ?_
  rcases hemits with ⟨-, hcount⟩ | ⟨-, -, p, -, hcount⟩ <;> rw [hcount]
  · exact hfit.framesTransmitted
  · exact inc_cnt_lt P _

/-! ### The other commands, and a step -/

/-- The invariant does not speak of the marker, the sticky bits, the TX stream, the response and the host's inputs. -/
theorem invAt_withRecords {t : State} (h : InvAt P s) (hrun : t.run = s.run) (hdecCfg : t.decCfg = s.decCfg)
    (hencCfg : t.encCfg = s.encCfg) (hdec : t.dec = s.dec) (hlast : t.last = s.last)
    (hcounters : t.counters = s.counters) (henc : t.enc = s.enc) (hrx : t.rx = s.rx) : InvAt P t := by
  unfold InvAt at h ⊢
  rw [coreInv_iff, fitsWidths_iff] at h ⊢
  rwa [hrun, hdecCfg, hencCfg, hdec, hlast, hcounters, henc, hrx]

/-- The rising edge of RUN and REINIT leave a datapath that has the invariant at any value of RUN (R601). -/
theorem invAt_datapathInit (h : InvAt P s) (run : Bool) : InvAt P ((datapathInit s).withRun run) := by
  obtain ⟨hdec, henc, -, -, hresult, hmessage⟩ := coreInv_iff.mp h.1
  obtain ⟨hcount, -⟩ := fitsWidths_iff.mp h.2
  exact ⟨coreInv_iff.mpr ⟨hdec, henc, positionInv_enterSyncSearch .., streamInv_init henc, hresult, hmessage⟩,
    fitsWidths_iff.mpr ⟨hcount, Nat.two_pow_pos _⟩⟩

/-- What the invariant asks only while RUN = 1 may be anything while RUN = 0. -/
theorem coreInv_of_stopped {t : State} (h : CoreInv s) (hrun : t.run = false) (hdecDepth : DepthInv t.decCfg.depth)
    (hencDepth : DepthInv t.encCfg.depth) (hdec : t.dec = s.dec) (hlast : t.last = s.last) (hrx : t.rx = s.rx) :
    CoreInv t := by
  obtain ⟨-, -, hpos, -, hresult, hmessage⟩ := coreInv_iff.mp h
  have hoff : ¬t.run = true := by simp [hrun]
  rw [coreInv_iff, hdec, hlast, hrx]
  exact ⟨hdecDepth, hencDepth, ⟨hpos.searching, hpos.inBuffer, fun hon => absurd hon hoff⟩,
    fun hon => absurd hon hoff, hresult, hmessage⟩

/-- A register write keeps the invariant (R57 to R72). -/
theorem invAt_csrWrite (h : InvAt P s) (a : BitVec 8) (v : Word) : InvAt P (csrWrite P a v s) := by
  obtain ⟨hcore, hfit⟩ := h
  have hlegal : legalDepth P (v.extractLsb' 12 4) = true → DepthInv (v.extractLsb' 12 4) := fun h =>
    ⟨((legalDepth_iff P).mp h).1, le_eight_of_legalDepth P h⟩
  rcases csrWrite_cases P s a v with ⟨-, -, -, hw⟩ | ⟨-, hedge, hw⟩ | ⟨-, hrun, hd, hw⟩ | ⟨-, hrun, hd, hw⟩ |
    ⟨-, -, hw⟩ | ⟨-, hw⟩ | ⟨-, hw⟩ | ⟨-, hw⟩ <;> rw [hw]
  · exact invAt_datapathInit P ⟨hcore, hfit⟩ true
  · refine ⟨?_, hfit.of_eq rfl rfl⟩
    cases hv : v.getLsbD 0 with
    | false => exact coreInv_of_stopped hcore rfl hcore.decDepth hcore.encDepth rfl rfl rfl
    | true =>
      have hkept : s.withRun true = s := by rw [← hedge.resolve_right (by simp [hv])]; rfl
      rwa [hkept]
  · exact ⟨coreInv_of_stopped hcore hrun (hlegal hd) hcore.encDepth rfl rfl rfl,
      hfit.of_eq rfl rfl⟩
  · exact ⟨coreInv_of_stopped hcore hrun hcore.decDepth (hlegal hd) rfl rfl rfl,
      hfit.of_eq rfl rfl⟩
  all_goals exact invAt_withRecords P (s := s) ⟨hcore, hfit⟩ rfl rfl rfl rfl rfl rfl rfl rfl

theorem invAt_respond (h : InvAt P s) (v : Word) : InvAt P (respond v s) :=
  invAt_withRecords P h rfl rfl rfl rfl rfl rfl rfl rfl

theorem invAt_illegalCommand (h : InvAt P s) : InvAt P (illegalCommand s) :=
  invAt_withRecords P h rfl rfl rfl rfl rfl rfl rfl rfl

theorem isData_of_isDecoderCommand (hi : isDecoderCommand i = true) : isData i = true := by
  cases i with
  | dbit | dbatch => rfl
  | nop | ebyte | emsg | einvoke | csrr | csrw | cntclr | reinit => cases hi

theorem invAt_decoderCommand (hi : isDecoderCommand i = true) (h : InvAt P s) : InvAt P (effectAt P i s) := by
  rcases Bool.eq_false_or_eq_true s.run with hrun | hrun
  · obtain ⟨bs, heffect⟩ := exists_effectAt_eq_bitSteps P hi hrun
    rw [heffect]
    exact invAt_respond P (invAt_bitSteps P hrun h bs) _
  · rw [effectAt_data_of_stopped P (isData_of_isDecoderCommand hi) hrun]
    exact invAt_illegalCommand P h

/-- CNTCLR keeps the invariant: no counter is wider for being 0 (R403). -/
theorem invAt_counterClear (h : InvAt P s) : InvAt P (counterClear s) :=
  ⟨coreInv_iff.mpr ((coreInv_iff (s := s)).mp h.1), fitsWidths_iff.mpr ⟨countersFit_reset _, h.2.ecount⟩⟩

/-- REINIT keeps the invariant (R404). -/
theorem invAt_reinitEffect (h : InvAt P s) : InvAt P (reinitEffect s) := by
  obtain ⟨hcore, hfit⟩ := invAt_counterClear P (invAt_datapathInit P h s.run)
  obtain ⟨hdec, henc, hpos, hstream, -, hmessage⟩ := coreInv_iff.mp hcore
  exact ⟨coreInv_iff.mpr ⟨hdec, henc, hpos, hstream, resultInv_reset, hmessage⟩,
    hfit.of_eq rfl rfl⟩

/-- Every command keeps the invariant, legal where it stands or not. -/
theorem invAt_effectAt (h : InvAt P s) (i : Instr) : InvAt P (effectAt P i s) := by
  cases i with
  | dbit | dbatch => exact invAt_decoderCommand P rfl h
  | ebyte | emsg | einvoke => exact invAt_encoderCommand P rfl h
  | nop | csrr => exact invAt_respond P h _
  | csrw a v => exact invAt_respond P (invAt_csrWrite P h a v) _
  | cntclr => exact invAt_respond P (invAt_counterClear P h) _
  | reinit => exact invAt_reinitEffect P h

theorem invAt_hardwareReset (h : InvAt P s) : InvAt P (hardwareReset P s) := by
  obtain ⟨hcore, hfit⟩ := invAt_resetWith P P.syncReset
  obtain ⟨hdec, henc, hpos, hstream, hresult, -⟩ := coreInv_iff.mp hcore
  exact ⟨coreInv_iff.mpr ⟨hdec, henc, hpos, hstream, hresult, h.1.messages⟩,
    hfit.of_eq rfl rfl⟩

/-- Everything a step at any parameters can answer: the state itself, or, once the next input is taken from the
port, the state after a command, an illegal word or the reset (R144, R600, R605). -/
theorem stepAt_cases (s : State) :
    stepAt P s = .next s ∨ ∃ rest, (∃ i, stepAt P s = .next (effectAt P i (s.withPort rest))) ∨
      stepAt P s = .next (illegalCommand (s.withPort rest)) ∨
      stepAt P s = .next (hardwareReset P (s.withPort rest)) := by
  unfold stepAt serveNext
  cases s.port with
  | nil => exact .inl rfl
  | cons input rest =>
    refine .inr ⟨rest, ?_⟩
    cases input with
    | reset => exact .inr (.inr rfl)
    | command cmd wdata =>
      simp only [serve, transact]
      cases decode cmd wdata with
      | ok i => exact .inl ⟨i, rfl⟩
      | error x => exact .inr (.inl rfl)

/-- Every step keeps the invariant, whatever the host's input. -/
theorem invAt_stepAt {t : State} (h : InvAt P s) (hstep : stepAt P s = .next t) : InvAt P t := by
  have hport : ∀ rest, InvAt P (s.withPort rest) := fun rest =>
    invAt_withRecords P h rfl rfl rfl rfl rfl rfl rfl rfl
  rcases stepAt_cases P s with hs | ⟨rest, ⟨i, hs⟩ | hs | hs⟩ <;> rw [hs] at hstep <;>
    obtain rfl := Host.Outcome.next.inj hstep
  · exact h
  · exact invAt_effectAt P (hport rest) i
  · exact invAt_illegalCommand P (hport rest)
  · exact invAt_hardwareReset P (hport rest)

end Machine

end Sys2Proof
end

section
/-! SUPPORT. The statements about the invariant of the core, settled (spec/10_state.md sections 2 to 9). -/

namespace Sys2Proof

open Machine

/-- Settles O57: every command keeps the part of the invariant it touches; at this hardware's widths every count
fits. -/
theorem everyStepKeepsTheInvariant : Obligations.EveryStepKeepsTheInvariant := by
  unfold Obligations.EveryStepKeepsTheInvariant
  constructor
  · intro s t h hstep
    rw [step_eq_stepAt] at hstep
    exact invAt_thisCore.mp (invAt_stepAt thisCore (invAt_thisCore.mpr h) hstep)
  · exact fun P s t h hfit hstep => invAt_stepAt P ⟨h, hfit⟩ hstep

/-- Settles O56: every register of the reset state is read off. -/
theorem invariantAtReset : Obligations.InvariantAtReset := by
  unfold Obligations.InvariantAtReset
  exact ⟨(invAt_resetWith thisCore Config.syncReset).1, fun P => invAt_resetWith P P.syncReset⟩

end Sys2Proof
end

section
/-! SUPPORT. What a few bits can do together (spec/40_bit_synchronizer.md R203 to R210, R224): fewer bits than a
codeword has make at most one decode attempt and declare sync at most once. -/

namespace Sys2Proof

namespace Machine

variable (P : Params) {s : State}

/-! ### Bits within a codeword -/

/-- How many bits of the codeword have been received. -/
def Decoder.received (d : Decoder) : Nat := d.bytecnt.toNat * 8 + d.bitcnt.toNat

/-- How many bits the codeword has. -/
def decBits (s : State) : Nat := s.decCfg.depth.toNat * 255 * 8

/-- A bit within the codeword, not the last one, changes the decoder alone and is counted (R203, R208). -/
theorem bitStep_within (b : Bool) (hdepth : s.decCfg.depth.toNat ≤ 8) (hd : s.dec.dstate = .codeword)
    (h : s.dec.received + 1 < decBits s) :
    ∃ d, bitStep P s b = s.withDec d ∧ d.dstate = .codeword ∧ d.received = s.dec.received + 1 := by
  have hroom : s.dec.bytecnt.toNat * 8 + s.dec.bitcnt.toNat + 1 < s.decCfg.depth.toNat * 255 * 8 := h
  have hfits := cwLen_le hdepth
  have hbyte := toNat_bytecnt_succ (d := s.dec) (by change _ < 2040; omega)
  have hbit := s.dec.bitcnt.isLt
  rcases bitStep_cases P s b with ⟨hd', -⟩ | ⟨hd', -⟩ | ⟨-, hpart, hs⟩ | ⟨-, hfull, -, hs⟩ | ⟨-, hfull, hlast, -⟩
  · cases hd.symm.trans hd'
  · cases hd.symm.trans hd'
  · refine ⟨_, hs, hd, ?_⟩
    have hbits : (s.dec.bitcnt + 1#3).toNat = s.dec.bitcnt.toNat + 1 := by
      rw [BitVec.toNat_add]; exact Nat.mod_eq_of_lt (by change s.dec.bitcnt.toNat + 1 < 8; omega)
    change s.dec.bytecnt.toNat * 8 + (s.dec.bitcnt + 1#3).toNat = s.dec.bytecnt.toNat * 8 + s.dec.bitcnt.toNat + 1
    omega
  · refine ⟨_, hs, hd, ?_⟩
    change (s.dec.bytecnt + 1#11).toNat * 8 + 0 = s.dec.bytecnt.toNat * 8 + s.dec.bitcnt.toNat + 1
    omega
  · have hcount : s.dec.bytecnt.toNat + 1 = s.decCfg.depth.toNat * 255 := hbyte.symm.trans hlast
    omega

/-- The last bit of the codeword runs the attempt (R209, R210). -/
theorem bitStep_completing (b : Bool) (hdepth : s.decCfg.depth.toNat ≤ 8) (hd : s.dec.dstate = .codeword)
    (h : s.dec.received + 1 = decBits s) :
    bitStep P s b = enterSyncSearch (decodeFrame P (storeByte (shifted s b))) := by
  have hroom : s.dec.bytecnt.toNat * 8 + s.dec.bitcnt.toNat + 1 = s.decCfg.depth.toNat * 255 * 8 := h
  have hbit := s.dec.bitcnt.isLt
  have hfits := cwLen_le hdepth
  have hbyte := toNat_bytecnt_succ (d := s.dec) (by change _ < 2040; omega)
  rcases bitStep_cases P s b with ⟨hd', -⟩ | ⟨hd', -⟩ | ⟨-, hpart, -⟩ | ⟨-, -, hpart, -⟩ | ⟨-, -, -, hs⟩
  · cases hd.symm.trans hd'
  · cases hd.symm.trans hd'
  · omega
  · have hpart' : s.dec.bytecnt.toNat + 1 ≠ s.decCfg.depth.toNat * 255 := hbyte ▸ hpart
    omega
  · exact hs

/-- Bits within the codeword change the decoder alone (R203, R208). -/
theorem bitSteps_within (bs : List Bool) (hdepth : s.decCfg.depth.toNat ≤ 8) (hd : s.dec.dstate = .codeword)
    (h : s.dec.received + bs.length < decBits s) :
    ∃ d, bitSteps P s bs = s.withDec d ∧ d.dstate = .codeword ∧ d.received = s.dec.received + bs.length := by
  induction bs generalizing s with
  | nil => exact ⟨s.dec, rfl, hd, rfl⟩
  | cons b bs ih =>
    rw [List.length_cons] at h
    obtain ⟨d, hs, hd', hcount⟩ := bitStep_within P b hdepth hd (by omega)
    obtain ⟨d', hs', hd'', hcount'⟩ := ih (s := s.withDec d) hdepth hd'
      (by change d.received + bs.length < decBits s; omega)
    rw [bitSteps_cons, hs, hs']
    exact ⟨d', rfl, hd'', hcount'.trans (by rw [List.length_cons]; change d.received + _ = _; omega)⟩

/-! ### Bits that search -/

/-- The state with another decoder and other counts of frames received. -/
def searched (s : State) (d : Decoder) (c : BitVec Config.cntWidth) : State :=
  (s.withDec d).withCounters { s.counters with framesReceived := c }

/-- A count has moved by at most one. -/
def MovedOnce (W : Nat) (c c' : BitVec Config.cntWidth) : Prop := c' = c ∨ c' = inc W c

/-- Fewer bits than a codeword has, from SyncSearch, declare sync at most once and do nothing else outside the
decoder (R204, R206). -/
theorem bitSteps_of_syncSearch (bs : List Bool) (hdepth : s.decCfg.depth.toNat ≤ 8) (hd : s.dec.dstate = .syncSearch)
    (h : bs.length < decBits s) :
    ∃ d c, bitSteps P s bs = searched s d c ∧ MovedOnce P.cntWidth s.counters.framesReceived c := by
  induction bs generalizing s with
  | nil => exact ⟨s.dec, _, rfl, .inl rfl⟩
  | cons b bs ih =>
    rw [List.length_cons] at h
    rw [bitSteps_cons]
    rcases bitStep_cases P s b with ⟨-, -, hs⟩ | ⟨-, -, hs⟩ | ⟨hd', -⟩ | ⟨hd', -⟩ | ⟨hd', -⟩
    · rw [hs]
      exact ih (s := shifted s b) hdepth hd (Nat.lt_of_succ_lt h)
    · obtain ⟨d, hs', -⟩ := bitSteps_within P (s := declareSync P (shifted s b)) bs hdepth rfl
        (by change 0 * 8 + 0 + bs.length < decBits s; omega)
      rw [hs, hs']
      exact ⟨d, _, rfl, .inr rfl⟩
    all_goals cases hd.symm.trans hd'

/-! ### A batch (R202) -/

/-- An attempt leaves the count of frames received alone (R220). -/
theorem decodeFrame_framesReceived (s : State) :
    (decodeFrame P s).counters.framesReceived = s.counters.framesReceived := by
  rw [decodeFrame_eq_of_receivedAttempt]; rfl

/-- The last bit of the codeword and few bits after it: one attempt, then a search (R209, R210). -/
theorem bitSteps_completing (b : Bool) (bs : List Bool) (hdepth : s.decCfg.depth.toNat ≤ 8)
    (hd : s.dec.dstate = .codeword) (h : s.dec.received + 1 = decBits s) (hlen : bs.length < decBits s) :
    ∃ d' d c, bitSteps P s (b :: bs) = searched (decodeFrame P (s.withDec d')) d c ∧
      MovedOnce P.cntWidth s.counters.framesReceived c := by
  have hcfg : (decodeFrame P (storeByte (shifted s b))).decCfg = s.decCfg := decodeFrame_decCfg P _
  have hsame : (decodeFrame P (storeByte (shifted s b))).counters.framesReceived = s.counters.framesReceived :=
    decodeFrame_framesReceived P _
  obtain ⟨d, c, hs, hmoved⟩ := bitSteps_of_syncSearch P
    (s := enterSyncSearch (decodeFrame P (storeByte (shifted s b)))) bs
    (by rw [enterSyncSearch_eq, hcfg]; exact hdepth) rfl
    (by rw [decBits, enterSyncSearch_eq, hcfg]; exact hlen)
  rw [bitSteps_cons, bitStep_completing P b hdepth hd h, hs]
  exact ⟨_, d, c, rfl, hsame ▸ hmoved⟩

theorem exists_eq_append_cons {α : Type} {l : List α} {k : Nat} (h : k < l.length) :
    ∃ before a after, l = before ++ a :: after ∧ before.length = k :=
  ⟨l.take k, l[k], l.drop (k + 1), by rw [List.getElem_cons_drop, List.take_append_drop],
    List.length_take_of_le h.le⟩

/-- Bits that make no decode attempt, or one, which completes the codeword being received; `u` is the state without
what the search after it adds. -/
def AttemptsAtMostOnce (P : Params) (s t : State) (bits : Nat) : Prop :=
  ∃ u d c, t = searched u d c ∧ MovedOnce P.cntWidth s.counters.framesReceived c ∧
    (u = s ∨ s.dec.dstate = .codeword ∧ decBits s ≤ s.dec.received + bits ∧ ∃ d', u = decodeFrame P (s.withDec d'))

/-- A batch of at most 16 bits makes at most one attempt and declares sync at most once (R202, R224). -/
theorem bitSteps_attemptsAtMostOnce (h : CoreInv s) (hrun : s.run = true) {bs : List Bool} (hlen : bs.length ≤ 16) :
    AttemptsAtMostOnce P s (bitSteps P s bs) bs.length := by
  have hdepth : s.decCfg.depth.toNat ≤ 8 := h.decDepth.2
  have hbits : 2040 ≤ decBits s := Nat.mul_le_mul_right 8 (Nat.mul_le_mul_right 255 h.decDepth.1)
  cases hd : s.dec.dstate with
  | syncSearch =>
    obtain ⟨d, c, hs, hmoved⟩ := bitSteps_of_syncSearch P bs hdepth hd (by omega)
    exact ⟨s, d, c, hs, hmoved, .inl rfl⟩
  | codeword =>
    by_cases hpart : s.dec.received + bs.length < decBits s
    case pos =>
      obtain ⟨d, hs, -⟩ := bitSteps_within P bs hdepth hd hpart
      exact ⟨s, d, _, hs, .inl rfl, .inl rfl⟩
    case neg =>
      have hstart : s.dec.received < decBits s := by
        have hbyte : s.dec.bytecnt.toNat < s.decCfg.depth.toNat * 255 := h.accumulating hrun hd
        have hbit := s.dec.bitcnt.isLt
        unfold decBits Decoder.received
        omega
      obtain ⟨before, b, after, rfl, hbefore⟩ :=
        exists_eq_append_cons (l := bs) (k := decBits s - s.dec.received - 1) (by omega)
      rw [List.length_append, List.length_cons] at hlen hpart
      obtain ⟨d, hs, hd', hcount⟩ := bitSteps_within P before hdepth hd (by omega)
      obtain ⟨d', d'', c, hs', hmoved⟩ := bitSteps_completing P (s := s.withDec d) b after hdepth hd'
        (by change d.received + 1 = decBits s; omega) (by change after.length < decBits s; omega)
      rw [bitSteps_append, hs, hs', List.length_append, List.length_cons]
      exact ⟨_, d'', c, rfl, hmoved, .inr ⟨hd, Nat.le_of_not_lt hpart, d', rfl⟩⟩

end Machine

end Sys2Proof
end

section
/-! SUPPORT. What a step can do to the streams, the counters and the results: by kind of command (spec/10_state.md
sections 3 and 8, spec/20_memory.md section 4). -/

namespace Sys2Proof

namespace Machine

variable (P : Params) {s : State} {i : Instr}

/-! ### Commands that process no data -/

/-- What a command does that processes no data: nothing is emitted or published, and the counters and the results
are kept or cleared (R403, R404). -/
structure ControlFrame (i : Instr) (s t : State) : Prop where
  rx : t.rx = s.rx
  tx : t.tx = s.tx
  counters : t.counters = s.counters ∨ t.counters = Counters.reset ∧ (i = .cntclr ∨ i = .reinit)
  last : t.last = s.last ∨ t.last = LastResult.reset ∧ i = .reinit

theorem csrWrite_controlFrame (a : BitVec 8) (v : Word) : ControlFrame (.csrw a v) s (csrWrite P a v s) := by
  rcases csrWrite_cases P s a v with ⟨-, -, -, h⟩ | ⟨-, -, h⟩ | ⟨-, -, -, h⟩ | ⟨-, -, -, h⟩ | ⟨-, -, h⟩ |
    ⟨-, h⟩ | ⟨-, h⟩ | ⟨-, h⟩ <;> rw [h] <;> exact ⟨rfl, rfl, .inl rfl, .inl rfl⟩

theorem effectAt_controlFrame (hi : isData i = false) : ControlFrame i s (effectAt P i s) := by
  cases i with
  | nop | csrr => exact ⟨rfl, rfl, .inl rfl, .inl rfl⟩
  | csrw a v =>
    obtain ⟨hrx, htx, hcounters, hlast⟩ := csrWrite_controlFrame P (s := s) a v
    exact ⟨hrx, htx, hcounters, hlast⟩
  | cntclr => exact ⟨rfl, rfl, .inr ⟨rfl, .inl rfl⟩, .inl rfl⟩
  | reinit => exact ⟨rfl, rfl, .inr ⟨rfl, .inr rfl⟩, .inr ⟨rfl, rfl⟩⟩
  | dbit | dbatch | ebyte | emsg | einvoke => cases hi

/-- The three kinds of command: no data is processed, the encoder is fed, or the decoder is fed (R18, R145). -/
theorem effectAt_kinds (s : State) (i : Instr) :
    ControlFrame i s (effectAt P i s) ∨ (s.run = true ∧ isEncoderCommand i = true) ∨
      (s.run = true ∧ isDecoderCommand i = true) := by
  rcases Bool.eq_false_or_eq_true s.run with hrun | hrun
  · cases i with
    | dbit | dbatch => exact .inr (.inr ⟨hrun, rfl⟩)
    | ebyte | emsg | einvoke => exact .inr (.inl ⟨hrun, rfl⟩)
    | nop | csrr | csrw | cntclr | reinit => exact .inl (effectAt_controlFrame P rfl)
  · cases hi : isData i with
    | false => exact .inl (effectAt_controlFrame P hi)
    | true =>
      rw [effectAt_data_of_stopped P hi hrun]
      exact .inl ⟨rfl, rfl, .inl rfl, .inl rfl⟩

/-! ### Decoder commands -/

/-- While RUN = 1 a decoder command feeds its bits and responds (R201, R202). -/
theorem effectAt_eq_bitSteps (hi : isDecoderCommand i = true) (hrun : s.run = true) :
    ∃ bs, bs.length = bitsFed i ∧ effectAt P i s = respond 0#32 (bitSteps P s bs) := by
  cases i with
  | dbit b => exact ⟨[b], rfl, effectAt_dbit_of_run P b hrun⟩
  | dbatch n d =>
    refine ⟨batchBits n d, ?_, by rw [effectAt, dbatchEffect, dataCommand_of_run s _ hrun]⟩
    rw [batchBits, List.length_map, List.length_range, bitsFed]
  | nop | ebyte | emsg | einvoke | csrr | csrw | cntclr | reinit => cases hi

/-- No command read from the port feeds more than 16 bits (R133). -/
theorem bitsFed_le_of_nextCommand (h : nextCommand s = some i) : bitsFed i ≤ 16 := by
  obtain ⟨cmd, wdata, hdecode⟩ : ∃ cmd wdata, decode cmd wdata = .ok i := by
    rcases stepTo_cases s with ⟨hport, -⟩ | ⟨cmd, wdata, rest, j, -, hd, hnext, -⟩ | ⟨_, _, rest, x, -, -, hnext, -⟩ |
      ⟨rest, hport, -, -⟩
    · simp [nextCommand, hport] at h
    · exact ⟨cmd, wdata, hd.trans (congrArg _ (Option.some.inj (hnext.symm.trans h)))⟩
    · cases hnext.symm.trans h
    · simp [nextCommand, hport] at h
  have hwf := (encodeOfDecode cmd wdata i hdecode).1
  cases i with
  | dbatch n d => exact (by simpa [Instr.wellFormed] using hwf : 1 ≤ n ∧ n ≤ 16).2
  | dbit => exact (by decide : 1 ≤ 16)
  | nop | ebyte | emsg | einvoke | csrr | csrw | cntclr | reinit => exact Nat.zero_le _

/-- Everything a decoder command can do while RUN = 1: at most one attempt and one sync (R224). -/
theorem effectAt_attemptsAtMostOnce (h : CoreInv s) (hrun : s.run = true) (hi : isDecoderCommand i = true)
    (hlen : bitsFed i ≤ 16) :
    ∃ t, effectAt P i s = respond 0#32 t ∧ AttemptsAtMostOnce P s t (bitsFed i) := by
  obtain ⟨bs, hbits, heffect⟩ := effectAt_eq_bitSteps P hi hrun
  exact ⟨_, heffect, hbits ▸ bitSteps_attemptsAtMostOnce P h hrun (hbits.trans_le hlen)⟩

/-! ### What an attempt counts and publishes (R220, R221) -/

theorem movedOnce_ite (W : Nat) (moves : Bool) (c : BitVec Config.cntWidth) :
    MovedOnce W c (if moves then inc W c else c) := by
  cases moves with
  | true => exact .inr rfl
  | false => exact .inl rfl

/-- How the counters move in an attempt: each by at most one, `subframesDecoded` by at most the depth. -/
theorem decodeFrame_counters (hdepth : s.decCfg.depth.toNat ≤ 8) :
    MovedOnce P.cntWidth s.counters.framesDecoded (decodeFrame P s).counters.framesDecoded ∧
      MovedOnce P.cntWidth s.counters.fillFramesDecoded (decodeFrame P s).counters.fillFramesDecoded ∧
      (∃ k ≤ 8, (decodeFrame P s).counters.subframesDecoded = countOn P.cntWidth k s.counters.subframesDecoded) ∧
      (decodeFrame P s).counters.framesTransmitted = s.counters.framesTransmitted := by
  rw [decodeFrame_eq_of_receivedAttempt]
  refine ⟨movedOnce_ite .., movedOnce_ite .., ⟨_, ?_, receivedAttempt_subframes P hdepth⟩, rfl⟩
  split
  · exact (List.length_filter_le ..).trans (List.length_range.trans_le hdepth)
  · exact Nat.zero_le _

/-- An attempt publishes nothing, or one payload of a decoded frame that is not fill. -/
theorem decodeFrame_rx (hdepth : s.decCfg.depth.toNat ≤ 8) :
    (decodeFrame P s).rx = s.rx ∨ ∃ p, (decodeFrame P s).rx = s.rx ++ [p] ∧
      p.length = s.decCfg.depth.toNat * 223 ∧
      (decodeFrame P s).counters.framesDecoded = inc P.cntWidth s.counters.framesDecoded ∧
      (decodeFrame P s).last.ok = true ∧ (decodeFrame P s).last.fillFast = false := by
  rw [decodeFrame_eq_of_receivedAttempt]
  dsimp only
  by_cases h : ((receivedAttempt P s).ok && !fillFast (receivedAttempt P s).pl) = true
  case neg => exact .inl (if_neg h)
  case pos =>
    obtain ⟨hok, hfast⟩ : (receivedAttempt P s).ok = true ∧ fillFast (receivedAttempt P s).pl = false := by
      simpa using h
    exact .inr ⟨_, if_pos h, length_take_toList _ (pLen_le hdepth), if_pos hok, hok, hfast⟩

end Machine

end Sys2Proof
end

section
/-! SUPPORT. The statements about the streams, the counters and the results over a step, settled. -/

namespace Sys2Proof

open Machine

/-- The invariant does not speak of the host's inputs (log 1). -/
theorem coreInv_withPort {s : State} (h : CoreInv s) (rest : List HostInput) : CoreInv (s.withPort rest) :=
  (invAt_withRecords thisCore (t := s.withPort rest) (invAt_thisCore.mpr h) rfl rfl rfl rfl rfl rfl rfl rfl).1

/-- Settles O49: only an encoder command that emits a frame changes TX, and a frame has the length of its layout. -/
theorem txGrowsByWholeFrames : Obligations.TxGrowsByWholeFrames := by
  unfold Obligations.TxGrowsByWholeFrames
  intro s t h hstep hne
  rw [step_next hstep] at hne ⊢
  rcases stepTo_cases s with ⟨-, hs⟩ | ⟨_, _, rest, i, -, -, hnext, hs⟩ | ⟨_, _, rest, _, -, -, -, hs⟩ |
    ⟨rest, -, -, hs⟩ <;> rw [hs] at hne ⊢
  · exact absurd rfl hne
  · rcases effectAt_kinds thisCore (s.withPort rest) i with hkept | ⟨-, hi⟩ | ⟨hrun, hi⟩
    · exact absurd hkept.tx hne
    · rcases (effectAt_encoder_cases thisCore (s := s.withPort rest) hi).1 with
        ⟨htx, -⟩ | ⟨hrun, hstarted, p, htx, hcount⟩
      · exact absurd htx hne
      · refine ⟨_, i, htx, hnext, hi, hrun, ?_, by rw [hcount, inc_thisCore]; rfl, hstarted⟩
        rw [length_frameOf thisCore (s.withPort rest) p h.encDepth.2, Nat.mul_comm 255]; rfl
    · obtain ⟨bs, -, heffect⟩ := effectAt_eq_bitSteps thisCore hi hrun
      exact absurd (by rw [heffect]; exact (bitSteps_frame thisCore _ bs).tx) hne
  · exact absurd rfl hne
  · exact absurd rfl hne

/-- Settles O50: only an attempt publishes, and a decoder command makes at most one. -/
theorem rxGrowsByOnePayload : Obligations.RxGrowsByOnePayload := by
  unfold Obligations.RxGrowsByOnePayload
  intro s t h hstep
  rw [step_next hstep]
  rcases stepTo_cases s with ⟨-, hs⟩ | ⟨_, _, rest, i, -, -, hnext, hs⟩ | ⟨_, _, rest, _, -, -, -, hs⟩ |
    ⟨rest, -, -, hs⟩ <;> rw [hs]
  · exact ⟨.inl rfl, .inl rfl⟩
  · rcases effectAt_kinds thisCore (s.withPort rest) i with hkept | ⟨-, hi⟩ | ⟨hrun, hi⟩
    · refine ⟨.inl hkept.rx, ?_⟩
      rcases hkept.counters with hcount | ⟨hcount, -⟩ <;> rw [hcount]
      · exact .inl rfl
      · exact .inr (.inr rfl)
    · have hframe := effectAt_encoderFrame thisCore (s.withPort rest) hi
      exact ⟨.inl hframe.rx, .inl hframe.framesDecoded⟩
    · obtain ⟨t, heffect, u, d, c, rfl, -, hu⟩ := effectAt_attemptsAtMostOnce thisCore (coreInv_withPort h rest) hrun hi
        (bitsFed_le_of_nextCommand hnext)
      rw [heffect]
      rcases hu with rfl | ⟨-, -, d', rfl⟩
      · exact ⟨.inl rfl, .inl rfl⟩
      · have hdepth : ((s.withPort rest).withDec d').decCfg.depth.toNat ≤ 8 := h.decDepth.2
        obtain ⟨hmoved, -⟩ := decodeFrame_counters thisCore hdepth
        refine ⟨?_, hmoved.imp_right fun hinc => .inl (hinc.trans (inc_thisCore _))⟩
        exact (decodeFrame_rx thisCore hdepth).imp_right fun ⟨p, hrx, hlen, hinc, hlast⟩ =>
          ⟨p, hrx, hlen, hinc.trans (inc_thisCore _), hlast⟩
  · exact ⟨.inl rfl, .inl rfl⟩
  · exact ⟨.inl rfl, .inr (.inr rfl)⟩

/-- A count has advanced by at most `n`, modulo 2^32. -/
def AdvancedBy (n : Nat) (c c' : BitVec Config.cntWidth) : Prop := ∃ k ≤ n, c' = c + BitVec.ofNat 32 k

theorem advancedBy_of_eq {n : Nat} {c c' : BitVec Config.cntWidth} (h : c' = c) : AdvancedBy n c c' :=
  ⟨0, Nat.zero_le n, h.trans (BitVec.add_zero c).symm⟩

theorem advancedBy_of_movedOnce {c c' : BitVec Config.cntWidth} (h : MovedOnce thisCore.cntWidth c c') :
    AdvancedBy 1 c c' := by
  rcases h with h | h
  · exact advancedBy_of_eq h
  · exact ⟨1, Nat.le_refl 1, h.trans (inc_thisCore c)⟩

/-- The bounds of one step (R224). -/
def CountersAdvance (c c' : Counters) : Prop :=
  AdvancedBy 1 c.framesReceived c'.framesReceived ∧ AdvancedBy 1 c.framesDecoded c'.framesDecoded ∧
    AdvancedBy 8 c.subframesDecoded c'.subframesDecoded ∧ AdvancedBy 1 c.fillFramesDecoded c'.fillFramesDecoded ∧
    AdvancedBy 1 c.framesTransmitted c'.framesTransmitted

theorem countersAdvance_of_eq {c c' : Counters} (h : c' = c) : CountersAdvance c c' := by
  subst h
  exact ⟨advancedBy_of_eq rfl, advancedBy_of_eq rfl, advancedBy_of_eq rfl, advancedBy_of_eq rfl, advancedBy_of_eq rfl⟩

/-- Every command but CNTCLR and REINIT advances the counters by at most the bounds. -/
theorem countersAdvance_effectAt {s : State} (h : CoreInv s) {i : Instr} (hlen : bitsFed i ≤ 16)
    (hcntclr : i ≠ .cntclr) (hreinit : i ≠ .reinit) : CountersAdvance s.counters (effectAt thisCore i s).counters := by
  rcases effectAt_kinds thisCore s i with hkept | ⟨-, hi⟩ | ⟨hrun, hi⟩
  case inl => exact countersAdvance_of_eq (hkept.counters.resolve_right (by simp [hcntclr, hreinit]))
  case inr.inl =>
    rcases (effectAt_encoder_cases thisCore (s := s) hi).1 with ⟨-, hcount⟩ | ⟨-, -, p, -, hcount⟩ <;> rw [hcount]
    · exact countersAdvance_of_eq rfl
    · exact ⟨advancedBy_of_eq rfl, advancedBy_of_eq rfl, advancedBy_of_eq rfl, advancedBy_of_eq rfl,
        advancedBy_of_movedOnce (.inr rfl)⟩
  case inr.inr =>
    obtain ⟨t, heffect, u, d, c, rfl, hsync, hu⟩ := effectAt_attemptsAtMostOnce thisCore h hrun hi hlen
    rw [heffect]
    refine ⟨advancedBy_of_movedOnce hsync, ?_⟩
    rcases hu with rfl | ⟨-, -, d', rfl⟩
    · exact (countersAdvance_of_eq rfl).2
    · obtain ⟨hdec, hfill, ⟨k, hk, hsub⟩, htx⟩ := decodeFrame_counters thisCore (s := s.withDec d') h.decDepth.2
      exact ⟨advancedBy_of_movedOnce hdec, ⟨k, hk, hsub.trans (countOn_thisCore k _)⟩, advancedBy_of_movedOnce hfill,
        advancedBy_of_eq htx⟩

/-- Settles O51: a command's bounds are those of its kind, and only CNTCLR, REINIT and the reset clear. -/
theorem countersOnlyAdvance : Obligations.CountersOnlyAdvance := by
  unfold Obligations.CountersOnlyAdvance
  intro s t h hstep hreset hcntclr hreinit
  rw [step_next hstep]
  suffices hadvance : CountersAdvance s.counters (stepTo s).counters from hadvance
  rcases stepTo_cases s with ⟨-, hs⟩ | ⟨_, _, rest, i, -, -, hnext, hs⟩ | ⟨_, _, rest, _, -, -, -, hs⟩ |
    ⟨rest, -, hnext, -⟩
  · rw [hs]; exact countersAdvance_of_eq rfl
  · rw [hnext, Ne, Option.some.injEq] at hcntclr hreinit
    rw [hs]
    exact countersAdvance_effectAt (coreInv_withPort h rest) (bitsFed_le_of_nextCommand hnext) hcntclr hreinit
  · rw [hs]; exact countersAdvance_of_eq rfl
  · cases hnext.symm.trans hreset

/-- Settles O53: among the commands only REINIT and an attempt change the results. -/
theorem resultsKeptBetweenAttempts : Obligations.ResultsKeptBetweenAttempts := by
  unfold Obligations.ResultsKeptBetweenAttempts
  intro s t h hstep hne
  rw [step_next hstep] at hne ⊢
  rcases stepTo_cases s with ⟨-, hs⟩ | ⟨_, _, rest, i, -, -, hnext, hs⟩ | ⟨_, _, rest, _, -, -, -, hs⟩ |
    ⟨rest, -, hreset, -⟩
  · exact absurd (by rw [hs]) hne
  · rw [hs] at hne ⊢
    rcases effectAt_kinds thisCore (s.withPort rest) i with hkept | ⟨-, hi⟩ | ⟨hrun, hi⟩
    · exact .inr (.inl (by rw [hnext, (hkept.last.resolve_left hne).2]))
    · exact absurd (effectAt_encoderFrame thisCore (s.withPort rest) hi).last hne
    · obtain ⟨t, heffect, u, d, c, rfl, -, hu⟩ := effectAt_attemptsAtMostOnce thisCore (coreInv_withPort h rest) hrun hi
        (bitsFed_le_of_nextCommand hnext)
      rw [heffect] at hne ⊢
      rcases hu with rfl | ⟨hd, hbits, d', rfl⟩
      · exact absurd rfl hne
      · refine .inr (.inr ⟨i, hnext, hi, hrun, hd, hbits, ?_⟩)
        change (decodeFrame thisCore _).last.valid = true
        rw [decodeFrame_eq_of_receivedAttempt]
  · exact absurd (by rw [hs]; rfl) hne
  · exact .inl hreset

end Sys2Proof
end

section
/-! SUPPORT. What RUN locks (spec/10_state.md sections 1 and 7), and who sets and clears each sticky bit
(spec/10_state.md section 5). -/

namespace Sys2Proof

namespace Machine

variable (P : Params) {s : State} {i : Instr}

/-! ### While RUN = 1 (R59, R61, R62) -/

/-- While RUN = 1 no register write reaches the configuration. -/
theorem csrWrite_config_of_run (hrun : s.run = true) (a : BitVec 8) (v : Word) :
    (csrWrite P a v s).decCfg = s.decCfg ∧ (csrWrite P a v s).encCfg = s.encCfg ∧
      (csrWrite P a v s).syncWord = s.syncWord := by
  rcases csrWrite_cases P s a v with ⟨-, hoff, -⟩ | ⟨-, -, h⟩ | ⟨-, hoff, -⟩ | ⟨-, hoff, -⟩ | ⟨-, hoff, -⟩ |
    ⟨-, h⟩ | ⟨-, h⟩ | ⟨-, h⟩
  case inl | inr.inr.inl | inr.inr.inr.inl | inr.inr.inr.inr.inl => cases hrun.symm.trans hoff
  all_goals rw [h]; exact ⟨rfl, rfl, rfl⟩

/-- While RUN = 1 a decoder command touches, outside the decoder, what its bits touch and the response (R618). -/
theorem effectAt_decoderFrame (hi : isDecoderCommand i = true) (hrun : s.run = true) :
    DecoderFrame (respond 0#32 s) (effectAt P i s) := by
  obtain ⟨bs, -, heffect⟩ := effectAt_eq_bitSteps P hi hrun
  obtain ⟨hrun', hdecCfg, hencCfg, hsync, henc, htx, -, hport, hcount, hmsg, hlen, hcmd, hcfg⟩ := bitSteps_frame P s bs
  rw [heffect]
  exact ⟨hrun', hdecCfg, hencCfg, hsync, henc, htx, rfl, hport, hcount, hmsg, hlen, hcmd, hcfg⟩

theorem effectAt_config_of_run (hrun : s.run = true) (i : Instr) :
    (effectAt P i s).decCfg = s.decCfg ∧ (effectAt P i s).encCfg = s.encCfg ∧
      (effectAt P i s).syncWord = s.syncWord := by
  have hencoder (hi : isEncoderCommand i = true) := effectAt_encoderFrame P s hi
  have hdecoder (hi : isDecoderCommand i = true) := effectAt_decoderFrame P hi hrun
  cases i with
  | nop | csrr | cntclr | reinit => exact ⟨rfl, rfl, rfl⟩
  | csrw a v => exact csrWrite_config_of_run P hrun a v
  | ebyte | emsg | einvoke => exact ⟨(hencoder rfl).decCfg, (hencoder rfl).encCfg, (hencoder rfl).syncWord⟩
  | dbit | dbatch => exact ⟨(hdecoder rfl).decCfg, (hdecoder rfl).encCfg, (hdecoder rfl).syncWord⟩

/-! ### While RUN = 0 (R145, R601) -/

/-- The decoder and the encoder are as they were, or both as DatapathInit leaves them. -/
def DatapathKeptOrInit (s t : State) : Prop :=
  (t.dec = s.dec ∧ t.enc = s.enc) ∨ (t.dec = s.dec.enterSyncSearch ∧ t.enc = s.enc.init)

theorem csrWrite_datapath (a : BitVec 8) (v : Word) : DatapathKeptOrInit s (csrWrite P a v s) := by
  rcases csrWrite_cases P s a v with ⟨-, -, -, h⟩ | ⟨-, -, h⟩ | ⟨-, -, -, h⟩ | ⟨-, -, -, h⟩ | ⟨-, -, h⟩ |
    ⟨-, h⟩ | ⟨-, h⟩ | ⟨-, h⟩ <;> rw [h]
  case inl => exact .inr ⟨rfl, rfl⟩
  all_goals exact .inl ⟨rfl, rfl⟩

/-- While RUN = 0 no command processes data. -/
theorem effectAt_of_stopped (hrun : s.run = false) (i : Instr) :
    ControlFrame i s (effectAt P i s) ∧ DatapathKeptOrInit s (effectAt P i s) := by
  constructor
  · refine (effectAt_kinds P s i).resolve_right ?_
    simp [hrun]
  · cases i with
    | nop | csrr | cntclr => exact .inl ⟨rfl, rfl⟩
    | reinit => exact .inr ⟨rfl, rfl⟩
    | csrw a v => exact csrWrite_datapath P a v
    | dbit | dbatch | ebyte | emsg | einvoke =>
      rw [effectAt_data_of_stopped P rfl hrun]; exact .inl ⟨rfl, rfl⟩

/-! ### The sticky bits (R50, R501) -/

/-- The sticky bits with their places in STATUS (R63). -/
def stickyRows : List (Nat × (Sticky → Bool)) :=
  [(8, Sticky.uncorr), (9, Sticky.msgErr), (10, Sticky.lenErr), (11, Sticky.cmdErr), (12, Sticky.cfgErr)]

/-- An event sets the bit at its own place and no other (R501, R508). -/
theorem record_bit {k : Nat} {bit : Sticky → Bool} (h : (k, bit) ∈ stickyRows) (e : Event) (y : Sticky) :
    bit (y.record e) = (bit y || decide (e.code = some k)) := by
  simp only [stickyRows, List.mem_cons, Prod.mk.injEq, List.not_mem_nil, or_false] at h
  rcases h with ⟨rfl, rfl⟩ | ⟨rfl, rfl⟩ | ⟨rfl, rfl⟩ | ⟨rfl, rfl⟩ | ⟨rfl, rfl⟩ <;> cases e <;>
    simp [Sticky.record, Event.code]

/-- A write to STATUS clears the bits at the places of its ones (R64). -/
theorem clear_bit {k : Nat} {bit : Sticky → Bool} (h : (k, bit) ∈ stickyRows) (v : Word) (y : Sticky) :
    bit (y.clear v) = (bit y && !v.getLsbD k) := by
  simp only [stickyRows, List.mem_cons, Prod.mk.injEq, List.not_mem_nil, or_false] at h
  rcases h with ⟨rfl, rfl⟩ | ⟨rfl, rfl⟩ | ⟨rfl, rfl⟩ | ⟨rfl, rfl⟩ | ⟨rfl, rfl⟩ <;> rfl

theorem reset_bit {k : Nat} {bit : Sticky → Bool} (h : (k, bit) ∈ stickyRows) : bit Sticky.reset = false := by
  simp only [stickyRows, List.mem_cons, Prod.mk.injEq, List.not_mem_nil, or_false] at h
  rcases h with ⟨rfl, rfl⟩ | ⟨rfl, rfl⟩ | ⟨rfl, rfl⟩ | ⟨rfl, rfl⟩ | ⟨rfl, rfl⟩ <;> rfl

/-- The commands that can meet an event, and where (R503 to R507). -/
def MayRecord (s : State) (i : Instr) : Event → Prop
  | .syncNotFound => False
  | .uncorrectableBlock => isDecoderCommand i = true ∧ s.run = true ∧ s.decCfg.rsEn = true
  | .malformedInputMessage => i = .einvoke ∧ s.enc.pending = false ∧ s.encCfg.idleEn = false
  | .lengthMismatch => i = .einvoke ∧ s.enc.pending = true ∧ s.enc.ecount.toNat ≠ s.encCfg.depth.toNat * 223
  | .illegalCommand => isData i = true ∧ (s.run = false ∨ isEncoderCommand i = true)
  | .configRejected => ∃ a v, i = .csrw a v ∧ 1 ≤ a.toNat ∧ a.toNat ≤ 3

/-- The sticky bits after a command: kept, with one event recorded, or cleared by STATUS or REINIT. -/
def StickyMoves (s : State) (i : Instr) (y : Sticky) : Prop :=
  y = s.sticky ∨ (∃ e, MayRecord s i e ∧ y = s.sticky.record e) ∨
    (∃ v, i = .csrw 0x04#8 v ∧ y = s.sticky.clear v) ∨ (i = .reinit ∧ y = Sticky.reset)

/-- With RS decoding disabled every attempt succeeds, whatever the depth (R366). -/
theorem receivedAttempt_ok_of_bypass (hrs : s.decCfg.rsEn = false) : (receivedAttempt P s).ok = true := by
  rw [receivedAttempt, runAttempt_eq, attemptUpTo_ok]
  intro j _
  rw [subBlockOutcome, rsDecodeCall, hrs]; rfl

/-- A bit records UncorrectableBlock or nothing, and nothing with RS decoding disabled (R502, R503). -/
theorem bitStep_sticky (b : Bool) :
    (bitStep P s b).sticky = s.sticky ∨
      (s.decCfg.rsEn = true ∧ (bitStep P s b).sticky = s.sticky.record .uncorrectableBlock) := by
  rcases bitStep_cases P s b with ⟨-, -, h⟩ | ⟨-, -, h⟩ | ⟨-, -, h⟩ | ⟨-, -, -, h⟩ | ⟨-, -, -, h⟩ <;> rw [h]
  case inr.inr.inr.inr =>
    rw [decodeFrame_eq_of_receivedAttempt]
    change { s.sticky with uncorr := s.sticky.uncorr || !(receivedAttempt P (storeByte (shifted s b))).ok } = _ ∨
      _ ∧ { s.sticky with uncorr := s.sticky.uncorr || !(receivedAttempt P (storeByte (shifted s b))).ok } = _
    cases hrs : s.decCfg.rsEn with
    | false => exact .inl (by rw [receivedAttempt_ok_of_bypass P (s := storeByte (shifted s b)) hrs]; simp)
    | true =>
      cases (receivedAttempt P (storeByte (shifted s b))).ok with
      | true => exact .inl (by simp)
      | false => exact .inr ⟨rfl, by simp [Sticky.record]⟩
  all_goals exact .inl rfl

/-- So do any number of bits (R202). -/
theorem bitSteps_sticky (bs : List Bool) :
    (bitSteps P s bs).sticky = s.sticky ∨
      (s.decCfg.rsEn = true ∧ (bitSteps P s bs).sticky = s.sticky.record .uncorrectableBlock) := by
  induction bs generalizing s with
  | nil => exact .inl rfl
  | cons b bs ih =>
    have hcfg := (bitStep_frame P s b).decCfg
    have htwice (y : Sticky) : (y.record .uncorrectableBlock).record .uncorrectableBlock =
      y.record .uncorrectableBlock := rfl
    rw [bitSteps_cons]
    rcases bitStep_sticky P (s := s) b with hbit | ⟨hrs, hbit⟩ <;> rcases ih (s := bitStep P s b) with h | ⟨hrs', h⟩ <;>
      rw [h, hbit]
    · exact .inl rfl
    · exact .inr ⟨hcfg ▸ hrs', rfl⟩
    · exact .inr ⟨hrs, rfl⟩
    · exact .inr ⟨hrs, htwice _⟩

theorem csrWrite_stickyMoves (a : BitVec 8) (v : Word) : StickyMoves s (.csrw a v) (csrWrite P a v s).sticky := by
  rcases csrWrite_cases P s a v with ⟨-, -, -, h⟩ | ⟨-, -, h⟩ | ⟨-, -, -, h⟩ | ⟨-, -, -, h⟩ | ⟨-, -, h⟩ |
    ⟨hrejected, h⟩ | ⟨rfl, h⟩ | ⟨-, h⟩ <;> rw [h]
  case inr.inr.inr.inr.inr.inl =>
    have hconfig : 1 ≤ a.toNat ∧ a.toNat ≤ 3 := by omega
    exact .inr (.inl ⟨.configRejected, ⟨a, v, rfl, hconfig⟩, rfl⟩)
  case inr.inr.inr.inr.inr.inr.inl => exact .inr (.inr (.inl ⟨v, rfl, rfl⟩))
  all_goals exact .inl rfl

/-- EINVOKE meets at most one event (R255, R504, R505, R506). -/
theorem invokeEffect_stickyMoves : StickyMoves s .einvoke (invokeEffect P s).sticky := by
  rcases invokeEffect_cases P s with ⟨-, h⟩ | ⟨-, -, -, h⟩ | ⟨-, hpend, hidle, h⟩ | ⟨-, hpend, hlen, h⟩ | ⟨-, -, -, h⟩ <;>
    rw [h]
  · exact .inr (.inl ⟨.illegalCommand, ⟨rfl, .inr rfl⟩, rfl⟩)
  · exact .inl rfl
  · exact .inr (.inl ⟨.malformedInputMessage, ⟨rfl, hpend, hidle⟩, rfl⟩)
  · exact .inr (.inl ⟨.lengthMismatch, ⟨rfl, hpend, hlen⟩, rfl⟩)
  · exact .inl rfl

theorem byteEffect_stickyMoves (b : Byte) : StickyMoves s (.ebyte b) (byteEffect P b s).sticky := by
  rw [byteEffect]
  split
  · rcases messageByte_cases P b s with ⟨-, h⟩ | ⟨-, h⟩ <;> rw [h]
    · exact .inr (.inl ⟨.illegalCommand, ⟨rfl, .inr rfl⟩, rfl⟩)
    · exact .inl rfl
  · exact .inl (streamByte_sticky P b)

theorem queueEffect_stickyMoves : StickyMoves s .emsg (queueEffect s).sticky := by
  rw [queueEffect]
  split
  · exact .inr (.inl ⟨.illegalCommand, ⟨rfl, .inr rfl⟩, rfl⟩)
  · exact .inl rfl

/-- Everything a command can do to the sticky bits. -/
theorem effectAt_stickyMoves (s : State) (i : Instr) : StickyMoves s i (effectAt P i s).sticky := by
  cases hstopped : isData i && !s.run with
  | true =>
    obtain ⟨hdata, hrun⟩ : isData i = true ∧ s.run = false := by simpa using hstopped
    rw [effectAt_data_of_stopped P hdata hrun]
    exact .inr (.inl ⟨.illegalCommand, ⟨hdata, .inl hrun⟩, rfl⟩)
  | false =>
    have hrun : isData i = true → s.run = true := by simpa using hstopped
    have hdecoder (hi : isDecoderCommand i = true) : StickyMoves s i (effectAt P i s).sticky := by
      have hon := hrun (isData_of_isDecoderCommand hi)
      obtain ⟨bs, -, heffect⟩ := effectAt_eq_bitSteps P hi hon
      rw [heffect]
      exact (bitSteps_sticky P bs).imp_right fun ⟨hrs, h⟩ => .inl ⟨.uncorrectableBlock, ⟨hi, hon, hrs⟩, h⟩
    cases i with
    | dbit | dbatch => exact hdecoder rfl
    | ebyte b => rw [effectAt, ebyteEffect, dataCommand_of_run s _ (hrun rfl)]; exact byteEffect_stickyMoves P b
    | emsg => rw [effectAt_emsg_of_run P (hrun rfl)]; exact queueEffect_stickyMoves
    | einvoke => rw [effectAt_einvoke_of_run P (hrun rfl)]; exact invokeEffect_stickyMoves P
    | nop | csrr | cntclr => exact .inl rfl
    | csrw a v => exact csrWrite_stickyMoves P a v
    | reinit => exact .inr (.inr (.inr ⟨rfl, rfl⟩))

/-- A bit that a command sets is the one of the event it met. -/
theorem StickyMoves.set {y : Sticky} {k : Nat} {bit : Sticky → Bool} (h : StickyMoves s i y)
    (hrow : (k, bit) ∈ stickyRows) (hbefore : bit s.sticky = false) (hafter : bit y = true) :
    ∃ e, MayRecord s i e ∧ e.code = some k := by
  rcases h with rfl | ⟨e, he, rfl⟩ | ⟨v, -, rfl⟩ | ⟨-, rfl⟩
  · cases hbefore.symm.trans hafter
  · rw [record_bit hrow, hbefore] at hafter
    exact ⟨e, he, by simpa using hafter⟩
  · rw [clear_bit hrow, hbefore] at hafter
    cases hafter
  · rw [reset_bit hrow] at hafter
    cases hafter

/-- A bit that a command clears is one it was told to clear. -/
theorem StickyMoves.cleared {y : Sticky} {k : Nat} {bit : Sticky → Bool} (h : StickyMoves s i y)
    (hrow : (k, bit) ∈ stickyRows) (hbefore : bit s.sticky = true) (hafter : bit y = false) :
    (∃ v, i = .csrw 0x04#8 v ∧ v.getLsbD k = true) ∨ i = .reinit := by
  rcases h with rfl | ⟨e, -, rfl⟩ | ⟨v, hi, rfl⟩ | ⟨hi, -⟩
  · cases hbefore.symm.trans hafter
  · rw [record_bit hrow, hbefore] at hafter
    cases hafter
  · rw [clear_bit hrow, hbefore] at hafter
    exact .inl ⟨v, hi, by simpa using hafter⟩
  · exact .inr hi

end Machine

end Sys2Proof
end

section
/-! SUPPORT. The statements about the configuration lock, the frames of the data commands and the sticky bits,
settled. -/

namespace Sys2Proof

open Machine

/-- Settles O36: while RUN = 1 the frame is that of the bits, and while RUN = 0 the command is turned away. -/
theorem decoderCommandsFrame : Obligations.DecoderCommandsFrame := by
  unfold Obligations.DecoderCommandsFrame
  intro s i hi
  refine ⟨_, exec_eq i s, ?_⟩
  rcases Bool.eq_false_or_eq_true s.run with hrun | hrun
  · obtain ⟨hrun', hdecCfg, hencCfg, hsync, henc, htx, hrdata, hport, hcount, hmsg, hlen, hcmd, hcfg⟩ :=
      effectAt_decoderFrame thisCore hi hrun
    exact ⟨hrun', hdecCfg, hencCfg, hsync, henc, htx, hrdata, hport, hcount, hmsg, hlen, hcfg, fun _ => hcmd,
      fun hoff => (by cases hrun.symm.trans hoff)⟩
  · rw [effectAt_data_of_stopped thisCore (isData_of_isDecoderCommand hi) hrun]
    exact ⟨rfl, rfl, rfl, rfl, rfl, rfl, rfl, rfl, rfl, rfl, rfl, rfl, fun hon => (by cases hrun.symm.trans hon),
      fun _ => rfl⟩

theorem effectAt_encoderCommand_rdata {s : State} {i : Instr} (hi : isEncoderCommand i = true) :
    (effectAt thisCore i s).rdata = 0#32 := by
  rcases Bool.eq_false_or_eq_true s.run with hrun | hrun
  · cases i with
    | ebyte b => rw [effectAt, ebyteEffect, dataCommand_of_run s _ hrun]; rfl
    | emsg => rw [effectAt_emsg_of_run thisCore hrun]; rfl
    | einvoke => rw [effectAt_einvoke_of_run thisCore hrun]; rfl
    | nop | dbit | dbatch | csrr | csrw | cntclr | reinit => cases hi
  · rw [effectAt_data_of_stopped thisCore (isData_of_isEncoderCommand hi) hrun]; rfl

/-- Settles O42: the frame every encoder command has, and while RUN = 0 the command is turned away. -/
theorem encoderCommandsFrame : Obligations.EncoderCommandsFrame := by
  unfold Obligations.EncoderCommandsFrame
  intro s i hi
  obtain ⟨hrun, hdecCfg, hencCfg, hsync, hdec, hlast, hrx, hport, hreceived, hdecoded, hsub, hfill, huncorr, hcfg⟩ :=
    effectAt_encoderFrame thisCore s hi
  refine ⟨_, exec_eq i s, hrun, hdecCfg, hencCfg, hsync, hdec, hlast, hrx, effectAt_encoderCommand_rdata hi, hport,
    hreceived, hdecoded, hsub, hfill, huncorr, hcfg, fun hoff => ?_⟩
  rw [effectAt_data_of_stopped thisCore (isData_of_isEncoderCommand hi) hoff]; rfl

/-- Settles O48: RUN = 1 keeps the writes out of the configuration, RUN = 0 the data commands out of the datapath. -/
theorem configurationLock : Obligations.ConfigurationLock := by
  unfold Obligations.ConfigurationLock
  intro s t hreset hstep
  rw [step_next hstep]
  rcases stepTo_cases s with ⟨-, hs⟩ | ⟨_, _, rest, i, -, -, -, hs⟩ | ⟨_, _, rest, _, -, -, -, hs⟩ |
    ⟨rest, -, hnext, -⟩
  case inr.inr.inr => cases hnext.symm.trans hreset
  case inr.inl =>
    rw [hs]
    refine ⟨fun hrun => effectAt_config_of_run thisCore (s := s.withPort rest) hrun i, fun hrun => ?_⟩
    obtain ⟨⟨hrx, htx, hcounters, hlast⟩, hdatapath⟩ := effectAt_of_stopped thisCore (s := s.withPort rest) hrun i
    exact ⟨hrx, htx, hdatapath, hcounters.imp_right And.left, hlast.imp_right And.left⟩
  all_goals rw [hs]; exact ⟨fun _ => ⟨rfl, rfl, rfl⟩, fun _ => ⟨rfl, rfl, .inl ⟨rfl, rfl⟩, .inl rfl, .inl rfl⟩⟩

/-- Settles O52: a command keeps the sticky bits, records the one event it may meet, or clears some. -/
theorem stickyBitsSetAndCleared : Obligations.StickyBitsSetAndCleared := by
  unfold Obligations.StickyBitsSetAndCleared
  intro s t k bit hrow hstep
  change (k, bit) ∈ stickyRows at hrow
  rw [step_next hstep]
  rcases stepTo_cases s with ⟨-, hs⟩ | ⟨_, _, rest, i, -, -, hnext, hs⟩ | ⟨_, _, rest, _, -, -, hnext, hs⟩ |
    ⟨rest, -, hreset, hs⟩ <;> rw [hs]
  case inl =>
    exact ⟨fun hbefore hafter => (by cases hbefore.symm.trans hafter),
      fun hbefore hafter => (by cases hbefore.symm.trans hafter)⟩
  case inr.inl =>
    have hmoves := effectAt_stickyMoves thisCore (s.withPort rest) i
    rw [hnext]
    refine ⟨fun hbefore hafter => ?_, fun hbefore hafter => ?_⟩
    · rcases hmoves.cleared hrow hbefore hafter with ⟨v, hi, hv⟩ | hi
      · exact .inl ⟨v, congrArg some hi, hv⟩
      · exact .inr (.inl (congrArg some hi))
    · obtain ⟨e, hcause, hcode⟩ := hmoves.set hrow hbefore hafter
      cases e with
      | syncNotFound => cases hcause
      | uncorrectableBlock =>
        obtain ⟨hi, hrun, hrs⟩ := hcause
        exact .inl ⟨(Option.some.inj hcode).symm, ⟨i, rfl, hi⟩, hrun, hrs⟩
      | malformedInputMessage =>
        obtain ⟨hi, hpend, hidle⟩ := hcause
        exact .inr (.inl ⟨(Option.some.inj hcode).symm, congrArg some hi, hpend, hidle⟩)
      | lengthMismatch =>
        obtain ⟨hi, hpend, hlen⟩ := hcause
        exact .inr (.inr (.inl ⟨(Option.some.inj hcode).symm, congrArg some hi, hpend, hlen⟩))
      | illegalCommand =>
        exact .inr (.inr (.inr (.inl ⟨(Option.some.inj hcode).symm, .inr ⟨i, rfl, hcause⟩⟩)))
      | configRejected =>
        obtain ⟨a, v, hi, haddr⟩ := hcause
        exact .inr (.inr (.inr (.inr ⟨(Option.some.inj hcode).symm, a, v, congrArg some hi, haddr⟩)))
  case inr.inr.inl =>
    have hbit : bit (illegalCommand (s.withPort rest)).sticky = (bit s.sticky || decide (some 11 = some k)) :=
      record_bit hrow .illegalCommand s.sticky
    rw [hbit]
    refine ⟨fun hbefore hafter => (by simp [hbefore] at hafter), fun hbefore hafter => ?_⟩
    exact .inr (.inr (.inr (.inl ⟨by simpa [hbefore, eq_comm] using hafter, .inl hnext⟩)))
  case inr.inr.inr =>
    refine ⟨fun _ _ => .inr (.inr hreset), fun _ hafter => ?_⟩
    cases (reset_bit hrow).symm.trans hafter

end Sys2Proof
end

section
/-! SUPPORT. The statements about the reset input and the registers CTRL and SYNC_WORD, settled (spec/10_state.md
section 7, spec/70_reset_and_hazards.md section 1). -/

namespace Sys2Proof

open Machine

/-- Settles O11: the step serves the reset input, which keeps the streams and the rest of the host's inputs. -/
theorem hardwareResetKeepsTheStreams : Obligations.HardwareResetKeepsTheStreams := by
  unfold Obligations.HardwareResetKeepsTheStreams
  intro s rest hport
  refine ⟨hardwareReset thisCore (s.withPort rest), ?step, ?fields⟩
  case step => rw [step_eq, stepTo, hport]
  case fields =>
    rw [hardwareReset_eq]
    exact ⟨rfl, rfl, rfl, rfl, rfl, rfl, rfl, rfl, rfl, rfl, rfl, rfl, rfl, rfl, rfl, rfl, rfl, rfl⟩

/-- Settles O17: a write to CTRL stores RUN, and its rising edge initialises the datapath first. -/
theorem ctrlRegister : Obligations.CtrlRegister := by
  unfold Obligations.CtrlRegister
  intro s v
  refine ⟨?read, rfl, fun i hi hrun => ?stopped, fun a hlow hhigh hrun => ?locked, fun hrun hv => ?rising,
    fun hstored => ?stored⟩
  case read => rw [exec_csrr_of_csrAt (r := .ctrl) rfl, readCsr, ctrlWord_eq]
  case stopped => rw [exec_eq, effectAt_data_of_stopped thisCore hi hrun]; rfl
  case locked => rw [exec_eq, effectAt_csrw_of_rejectedWrite (P := thisCore) (.inl ⟨hrun, hlow, hhigh⟩)]
  case rising =>
    have hwrite : csrWrite thisCore 0x00#8 v s = (datapathInit s).withRun true := if_pos (by simp [hrun, hv])
    rw [exec_csrw, hwrite]; rfl
  case stored =>
    have hedge : (!s.run && v.getLsbD 0) = false := by
      rcases hstored with hrun | hv
      · rw [hrun]; rfl
      · rw [hv, Bool.and_false]
    have hwrite : csrWrite thisCore 0x00#8 v s = s.withRun (v.getLsbD 0) := if_neg (ne_true_of_eq_false hedge)
    rw [exec_csrw, hwrite]; rfl

/-- Settles O20: RUN alone decides whether the word is stored. -/
theorem syncWordRegister : Obligations.SyncWordRegister := by
  unfold Obligations.SyncWordRegister
  intro s v
  refine ⟨fun hrun => ?running, fun hrun => ?stopped, exec_csrr_of_csrAt (r := .syncWord) rfl s⟩
  case running => exact configRejectedExactlyWhen.2.1 s 0x03#8 v (.inl ⟨hrun, by decide, by decide⟩)
  case stopped =>
    have hwrite : csrWrite thisCore 0x03#8 v s = s.withSyncWord v := if_neg (by simp [hrun])
    rw [exec_csrw, hwrite]; rfl

end Sys2Proof
end

section
/-! SUPPORT. The statements about the address map, the moving of blocks and the scrambler, settled
(spec/42_interleave.md, spec/43_scrambler.md). -/

namespace Sys2Proof

open Machine

/-- Settles O44: the map is onto and injective in both modes; interleaved, the address is below 223n iff the row is
below 223. -/
theorem interleaveIsABijection : Obligations.InterleaveIsABijection := by
  unfold Obligations.InterleaveIsABijection
  refine ⟨fun mode n blen k hk => ?bijection, fun blen j => ?depthOne, fun n i j hi => ⟨rfl, ?dataFirst⟩⟩
  case bijection =>
    obtain ⟨i, j, hi, hj, hpos⟩ := pos_surj mode hk
    refine ⟨(i, j), ⟨hi, hj, hpos⟩, fun ij hi' hj' hpos' => ?_⟩
    obtain ⟨rfl, rfl⟩ := pos_inj mode hi' hj' hi hj (hpos'.trans hpos.symm)
    rfl
  case depthOne => simp only [pos]; omega
  case dataFirst =>
    change i + j * n < 223 * n ↔ j < 223
    constructor
    · intro hlt
      by_contra hge
      have hrows : 223 * n ≤ j * n := Nat.mul_le_mul_right n (Nat.le_of_not_lt hge)
      omega
    · intro hj
      have hrows : (j + 1) * n ≤ 223 * n := Nat.mul_le_mul_right n hj
      rw [Nat.succ_mul] at hrows
      omega

/-- Settles O45: the places of one sub-block hold its bytes, and no other sub-block shares one of them. -/
theorem extractAfterInsert : Obligations.ExtractAfterInsert := by
  unfold Obligations.ExtractAfterInsert
  intro m mode n blen i blk buf hi hm
  refine ⟨buf_ext fun j hj => ?_, fun i' hi' hne => buf_ext fun j hj => ?_⟩
  · rw [bufRead_extractBlock _ _ _ _ _ hj, bufRead_insertBlock_pos mode blk buf hi hj hm]
  · rw [bufRead_extractBlock _ _ _ _ _ hj, bufRead_extractBlock _ _ _ _ _ hj]
    exact bufRead_insertBlock_of_ne mode n blen i blk buf _ fun j' hj' hpos =>
      hne (pos_inj mode hi hj' hi' hj hpos).1.symm

/-- Settles O46: byte by byte, and a byte xored twice with the same cover byte is itself. -/
theorem scrambleIsItsOwnInverse : Obligations.ScrambleIsItsOwnInverse := by
  unfold Obligations.ScrambleIsItsOwnInverse
  intro C m len buf
  refine ⟨fun k hm hk => ?within, fun k hk => ?beyond, buf_ext fun k hm => ?twice⟩
  case within => rw [bufRead_scramble C len buf hm, if_pos hk]; rfl
  case beyond =>
    rcases Nat.lt_or_ge k m with hm | hm
    · rw [bufRead_scramble C len buf hm, if_neg (Nat.not_lt.mpr hk)]
    · rw [bufRead_of_le _ hm, bufRead_of_le _ hm]
  case twice =>
    rw [bufRead_scramble C len _ hm, bufRead_scramble C len buf hm]
    split
    · rw [BitVec.xor_assoc, BitVec.xor_self, BitVec.xor_zero]
    · rfl

namespace Machine

/-- The register after `n` bytes puts out the next byte (R322). -/
theorem lfsrBytes_succ_eq_append (n : Nat) (r : BitVec 8) :
    lfsrBytes (n + 1) r = lfsrBytes n r ++ [(lfsrByte ((List.range n).foldl (fun r _ => (lfsrByte r).2) r)).1] := by
  rw [List.foldl_const, List.length_range]
  induction n generalizing r with
  | zero => rfl
  | succ n ih =>
    rw [Function.iterate_succ_apply, lfsrBytes, ih]
    rfl

/-- Only the seed puts out eight ones: a register's first output is its own stages (R322). -/
theorem eq_lfsrSeed_of_lfsrByte : ∀ r : BitVec 8, (lfsrByte r).1 = 0xFF#8 → r = lfsrSeed := by decide +kernel

theorem lfsrBytes_256 : lfsrBytes 256 lfsrSeed = coverTable ++ [0xFF#8] := by decide +kernel

end Machine

/-- Settles O47: the generator puts out the table and then eight ones, which only the seed does. -/
theorem coverIsTheGeneratorsOutput : Obligations.CoverIsTheGeneratorsOutput := by
  unfold Obligations.CoverIsTheGeneratorsOutput
  have hbytes := (lfsrBytes_succ_eq_append 255 lfsrSeed).symm.trans lfsrBytes_256
  obtain ⟨htable, hnext⟩ := List.append_singleton_inj.mp hbytes
  exact ⟨by decide +kernel, htable, rfl, eq_lfsrSeed_of_lfsrByte _ hnext⟩

end Sys2Proof
end

section
/-! SUPPORT. The buffers after a decode attempt, beyond the bytes an attempt addresses (spec/40_bit_synchronizer.md
R216, R219). -/

namespace Sys2Proof

namespace Machine

variable (P : Params) {s : State}

/-- The descrambler leaves the bytes beyond the codeword alone (R216). -/
theorem bufRead_descrambled_of_le (C : Cover) {k : Nat} (hk : s.decCfg.depth.toNat * 255 ≤ k) :
    bufRead (descrambled C s) k = bufRead s.dec.cw k := by
  rw [descrambled]
  split
  · exact (scrambleIsItsOwnInverse C _ (decCwLen s) s.dec.cw).2.1 k hk
  · rfl

/-- An attempt leaves the bytes beyond the payload alone (R219). -/
theorem bufRead_receivedAttempt_pl_of_le {k : Nat} (hk : s.decCfg.depth.toNat * 223 ≤ k) :
    bufRead (receivedAttempt P s).pl k = bufRead s.dec.pl k := by
  rw [receivedAttempt, runAttempt_eq, attemptUpTo_pl]
  exact bufRead_insertBlocks_of_le _ _ _ _ (Nat.le_refl _) hk

end Machine

open Machine

/-- Settles O32: byte by byte, within the codeword and the payload and beyond them. -/
theorem decodeAttemptBuffers : Obligations.DecodeAttemptBuffers := by
  unfold Obligations.DecodeAttemptBuffers
  intro P s _ hdepth
  rw [decodeFrame_eq_of_receivedAttempt]
  exact ⟨fun k hk => bufRead_descrambled P.cover hdepth hk, fun k hk => bufRead_descrambled_of_le P.cover hk,
    fun i hi j hj => bufRead_receivedAttempt_pl P hdepth hi hj, fun k hk => bufRead_receivedAttempt_pl_of_le P hk,
    rfl, rfl, rfl, rfl⟩

end Sys2Proof
end

section
/-! SUPPORT. The order of bits in the shift register, and the search of a marker bit by bit (spec/20_memory.md
section 2, spec/40_bit_synchronizer.md R104 to R106, R204 to R206, R610). -/

namespace Sys2Proof

namespace Machine

/-! ### The register as a number (R104) -/

/-- One more bit of a number read most significant bit first. -/
def appendBit (v : Nat) (b : Bool) : Nat := 2 * v + b.toNat

/-- The register is the number of all bits so far, modulo 2^32. -/
theorem toNat_foldl_shiftIn {sr : Word} {v : Nat} (h : sr.toNat = v % 2 ^ 32) (bs : List Bool) :
    (bs.foldl shiftIn sr).toNat = bs.foldl appendBit v % 2 ^ 32 := by
  induction bs generalizing sr v with
  | nil => exact h
  | cons b bs ih =>
    refine ih ?_
    rw [toNat_shiftIn, h, appendBit]
    omega

/-- The bits before count as if shifted past the later ones. -/
theorem foldl_appendBit (bs : List Bool) (v : Nat) :
    bs.foldl appendBit v = v * 2 ^ bs.length + bs.foldl appendBit 0 := by
  induction bs generalizing v with
  | nil => rw [List.foldl_nil, List.foldl_nil, List.length_nil, Nat.pow_zero, Nat.mul_one, Nat.add_zero]
  | cons b bs ih =>
    rw [List.foldl_cons, List.foldl_cons, ih (appendBit v b), ih (appendBit 0 b), List.length_cons]
    simp only [appendBit]
    ring

theorem foldl_appendBit_lt (bs : List Bool) : bs.foldl appendBit 0 < 2 ^ bs.length := by
  induction bs with
  | nil => exact Nat.one_pos
  | cons b bs ih =>
    have hb : b.toNat * 2 ^ bs.length ≤ 1 * 2 ^ bs.length := Nat.mul_le_mul_right _ b.toNat_le
    rw [List.foldl_cons, foldl_appendBit, List.length_cons, Nat.pow_succ, appendBit, Nat.mul_zero, Nat.zero_add]
    omega

/-- The last `n` bits of the register are the number of the last `n` bits received. -/
theorem toNat_foldl_shiftIn_mod (sr : Word) (bs : List Bool) (h : bs.length ≤ 32) :
    (bs.foldl shiftIn sr).toNat % 2 ^ bs.length = bs.foldl appendBit 0 := by
  have hlow : 2 ^ bs.length ∣ 2 ^ 32 := Nat.pow_dvd_pow 2 h
  rw [toNat_foldl_shiftIn (v := sr.toNat) (Nat.mod_eq_of_lt sr.isLt).symm, Nat.mod_mod_of_dvd _ hlow,
    foldl_appendBit, Nat.add_comm, Nat.add_mul_mod_self_right, Nat.mod_eq_of_lt (foldl_appendBit_lt bs)]

/-! ### The marker on the wire (R106, R260) -/

/-- The bits of a word, most significant first. -/
def wordBits (w : Word) : List Bool := (List.range 32).map fun k => w.getLsbD (31 - k)

/-- The marker's bytes, each most significant bit first, are the bits of its word in order. -/
theorem wireBits_wireMarker (w : Word) : wireBits (wireMarker w) = wordBits w := by
  simp [wireBits, wireMarker, byteBits, wordBits, List.range_succ, List.range_zero, BitVec.getLsbD_extractLsb']

/-- The next bit of a word shifted in after the ones above it. -/
theorem shiftIn_ushiftRight (w : Word) (n : Nat) : shiftIn (w >>> (n + 1)) (w.getLsbD n) = w >>> n := by
  have hw := w.isLt
  have hbit : (w.getLsbD n).toNat = w.toNat / 2 ^ n % 2 := Nat.toNat_testBit ..
  have hle : w.toNat / 2 ^ n ≤ w.toNat := Nat.div_le_self ..
  refine shiftIn_eq_of_toNat ?_
  rw [BitVec.toNat_ushiftRight, BitVec.toNat_ushiftRight, Nat.shiftRight_eq_div_pow, Nat.shiftRight_eq_div_pow, hbit,
    Nat.pow_succ, ← Nat.div_div_eq_div_mul]
  omega

/-- After the first `k` bits of a word a zeroed register holds the word's first part. -/
theorem foldl_shiftIn_wordBits (w : Word) {k : Nat} (hk : k ≤ 32) :
    ((wordBits w).take k).foldl shiftIn 0#32 = w >>> (32 - k) := by
  induction k with
  | zero => exact (BitVec.ushiftRight_eq_zero (Nat.le_refl 32)).symm
  | succ k ih =>
    have hbit : (wordBits w)[k]? = some (w.getLsbD (31 - k)) := by
      rw [wordBits, List.getElem?_map, List.getElem?_range hk]; rfl
    rw [List.take_add_one, hbit, List.foldl_append, ih (Nat.le_of_succ_le hk), show 32 - k = 31 - k + 1 by omega,
      show 32 - (k + 1) = 31 - k by omega]
    exact shiftIn_ushiftRight w (31 - k)

/-! ### The search (R204, R205) -/

variable (P : Params) {s : State}

/-- The state with another shift register (R43). -/
def withShiftReg (s : State) (sr : Word) : State := s.withDec { s.dec with sr := sr }

/-- While no register on the way is within the threshold, bits in SyncSearch change the shift register alone. -/
theorem bitSteps_of_no_lock (bs : List Bool) (hd : s.dec.dstate = .syncSearch)
    (hlock : ∀ k, 1 ≤ k → k ≤ bs.length →
      markerFound ((bs.take k).foldl shiftIn s.dec.sr) s.syncWord s.decCfg.t = false) :
    bitSteps P s bs = withShiftReg s (bs.foldl shiftIn s.dec.sr) := by
  induction bs generalizing s with
  | nil => rfl
  | cons b bs ih =>
    have hfirst : markerFound (shiftIn s.dec.sr b) s.syncWord s.decCfg.t = false :=
      hlock 1 (Nat.le_refl 1) (Nat.le_add_left 1 _)
    have hbit : bitStep P s b = shifted s b := by
      rw [bitStep_of_syncSearch P s b hd]; exact if_neg (ne_true_of_eq_false hfirst)
    rw [bitSteps_cons, hbit]
    exact ih (s := shifted s b) hd fun k hlow hhigh => hlock (k + 1) (Nat.le_add_left 1 k) (Nat.succ_le_succ hhigh)

/-- The marker locks on its last bit and not before (R610). -/
theorem bitSteps_marker (hd : s.dec.dstate = .syncSearch) (hsr : s.dec.sr = 0#32)
    (hlock : NoEarlyLock s.syncWord s.decCfg.t) :
    (∀ k < 32, bitSteps P s ((wordBits s.syncWord).take k) = withShiftReg s (s.syncWord >>> (32 - k))) ∧
    bitSteps P s (wordBits s.syncWord) = declareSync P (withShiftReg s s.syncWord) := by
  have hpart : ∀ k < 32, bitSteps P s ((wordBits s.syncWord).take k) = withShiftReg s (s.syncWord >>> (32 - k)) := by
    intro k hk
    rw [bitSteps_of_no_lock P _ hd fun j hlow hhigh => ?_, hsr, foldl_shiftIn_wordBits _ hk.le]
    rw [List.length_take] at hhigh
    rw [List.take_take, Nat.min_eq_left (by omega), hsr, foldl_shiftIn_wordBits _ (by omega)]
    exact decide_eq_false (Nat.not_le.mpr (hlock j (by omega) hlow))
  refine ⟨hpart, ?_⟩
  have hsplit : wordBits s.syncWord = (wordBits s.syncWord).take 31 ++ [s.syncWord.getLsbD 0] := rfl
  have hlast : shiftIn (s.syncWord >>> (32 - 31)) (s.syncWord.getLsbD 0) = s.syncWord :=
    (shiftIn_ushiftRight s.syncWord 0).trans (BitVec.ushiftRight_zero _)
  have hfound : hamming s.syncWord s.syncWord = 0 := by rw [hamming, BitVec.xor_self]; rfl
  have hshifted : shifted (withShiftReg s (s.syncWord >>> (32 - 31))) (s.syncWord.getLsbD 0) =
      withShiftReg s s.syncWord := congrArg (withShiftReg s) hlast
  rw [hsplit, bitSteps_append, hpart 31 (by decide), bitSteps_cons, bitSteps_nil,
    bitStep_of_syncSearch P (withShiftReg s (s.syncWord >>> (32 - 31))) _ hd, hshifted]
  exact searchBit_of_le P _ (hfound.trans_le (Nat.zero_le _))

end Machine

end Sys2Proof
end

section
/-! SUPPORT. The statements about bit order, the threshold and the marker, settled. -/

namespace Sys2Proof

open Machine

/-- Settles O28: the register is the number of all bits so far, of which its low bits keep the last ones. -/
theorem firstBitIsMostSignificant : Obligations.FirstBitIsMostSignificant := by
  unfold Obligations.FirstBitIsMostSignificant
  intro sr bs
  change (bs.length = 32 → (bs.foldl shiftIn sr).toNat = bs.foldl appendBit 0) ∧
    (bs.length = 8 → ((bs.foldl shiftIn sr).extractLsb' 0 8).toNat = bs.foldl appendBit 0)
  refine ⟨fun hlen => ?word, fun hlen => ?byte⟩
  case word =>
    rw [← toNat_foldl_shiftIn_mod sr bs hlen.le, hlen]
    exact (Nat.mod_eq_of_lt (BitVec.isLt _)).symm
  case byte =>
    rw [← toNat_foldl_shiftIn_mod sr bs (by omega), hlen, BitVec.extractLsb'_toNat, Nat.shiftRight_zero]

/-- Settles O29: the distance is the number of error bits, which is at most 32. -/
theorem thresholdCountsBitErrors : Obligations.ThresholdCountsBitErrors := by
  unfold Obligations.ThresholdCountsBitErrors
  intro sync errors t
  refine ⟨?errors, fun ht sr => ?anything⟩
  case errors =>
    have herrors : sync ^^^ errors ^^^ sync = errors := by
      rw [BitVec.xor_comm, ← BitVec.xor_assoc, BitVec.xor_self, BitVec.zero_xor]
    rw [markerFound_iff, herrors, popcount, List.countP_eq_length_filter]
  case anything => exact (markerFound_iff sr sync t).mpr ((popcount_le _).trans ht)

/-- Settles O30: the 31 distances evaluated; the smallest is the largest threshold's bound. -/
theorem defaultMarkerEarlyLockDistance : Obligations.DefaultMarkerEarlyLockDistance := by
  unfold Obligations.DefaultMarkerEarlyLockDistance
  have hmin : ∀ k < 32, 1 ≤ k → 11 ≤ hamming (0x1ACFFC1D#32 >>> (32 - k)) 0x1ACFFC1D#32 := by decide +kernel
  have hreached : hamming (0x1ACFFC1D#32 >>> 1) 0x1ACFFC1D#32 = 11 := by decide +kernel
  refine ⟨hmin, hreached, fun t => ⟨fun hlock => ?_, fun ht k hk hlow => Nat.lt_of_le_of_lt ht (hmin k hk hlow)⟩⟩
  exact Nat.le_of_lt_succ ((hlock 31 (by decide) (by decide)).trans_eq hreached)

/-- Settles O31: the bits on the wire are the marker's bits in order, and the DBITs are these bits. -/
theorem markerLocksOnItsLastBit : Obligations.MarkerLocksOnItsLastBit := by
  unfold Obligations.MarkerLocksOnItsLastBit
  intro s hrun hd hsr hlock
  obtain ⟨hpart, hwhole⟩ := bitSteps_marker thisCore hd hsr hlock
  simp only [wireBits_wireMarker, execAll_eq]
  refine ⟨fun k hk => ⟨_, rfl, ?_⟩, ⟨_, rfl, ?_⟩⟩
  · cases k with
    | zero => exact ⟨hd, rfl⟩
    | succ k =>
      rw [applyAll_dbits thisCore s (by simp [wordBits]), dataCommand_of_run s _ hrun, hpart _ hk]
      exact ⟨hd, rfl⟩
  · rw [applyAll_dbits thisCore s (by simp [wordBits]), dataCommand_of_run s _ hrun, hwhole, declareSync, inc_thisCore]
    exact ⟨rfl, rfl, rfl, rfl⟩

end Sys2Proof
end

section
/-! SUPPORT. What a command can tell of the buffers: the bytes it reads are the ones it or an earlier command wrote
(spec/10_state.md R45, R46, R49, R76). The bits first, then the encoder's commands, then the rest. -/

namespace Sys2Proof

namespace Machine

/-! ### States that differ in buffer bytes -/

/-- The state with other buffers. -/
def withBuffers (s : State) (cw : Vector Byte Config.cwSize) (pl ebuf : Vector Byte Config.plSize) : State :=
  { s with dec := { s.dec with cw := cw, pl := pl }, enc := { s.enc with ebuf := ebuf } }

theorem sameButDeadBytes_iff {s t : State} :
    SameButDeadBytes s t ↔ ∃ cw pl ebuf, t = withBuffers s cw pl ebuf ∧
      (s.run = true → ∀ k < s.dec.bytecnt.toNat, bufRead s.dec.cw k = bufRead cw k) ∧
      (s.run = true → ∀ k < s.enc.ecount.toNat, k < s.encCfg.depth.toNat * 223 →
        bufRead s.enc.ebuf k = bufRead ebuf k) := by
  constructor
  · intro ⟨hvisible, hcodeword, hpayload⟩
    refine ⟨t.dec.cw, t.dec.pl, t.enc.ebuf, ?_, hcodeword, hpayload⟩
    change withBuffers (hideBuffers t) t.dec.cw t.dec.pl t.enc.ebuf = _
    rw [← hvisible]; rfl
  · rintro ⟨cw, pl, ebuf, rfl, hcodeword, hpayload⟩
    exact ⟨rfl, hcodeword, hpayload⟩

/-- While RUN = 0 no byte is live. -/
theorem sameButDeadBytes_of_stopped {s t : State} (hvisible : hideBuffers s = hideBuffers t) (hrun : s.run = false) :
    SameButDeadBytes s t :=
  ⟨hvisible, fun hon => (by cases hrun.symm.trans hon), fun hon => (by cases hrun.symm.trans hon)⟩

/-- With nothing received and nothing kept no byte is live. -/
theorem sameButDeadBytes_of_empty {s t : State} (hvisible : hideBuffers s = hideBuffers t)
    (hbytes : s.dec.bytecnt = 0#11) (hcount : s.enc.ecount = 0#16) : SameButDeadBytes s t :=
  ⟨hvisible, fun _ k hk => absurd hk (by simp [hbytes]), fun _ k hk => absurd hk (by simp [hcount])⟩

/-- Two buffers that agree below `n` agree below `n + 1` once the same byte is written at `n`. -/
theorem bufRead_bufWrite_congr {m n k : Nat} {x y : Vector Byte m} (v : Byte) (h : k ≠ n → bufRead x k = bufRead y k) :
    bufRead (bufWrite x n v) k = bufRead (bufWrite y n v) k := by
  rcases Nat.lt_or_ge k m with hm | hm
  · by_cases hk : n = k
    · subst hk
      rw [bufRead_bufWrite_self x v hm, bufRead_bufWrite_self y v hm]
    · rw [bufRead_bufWrite_of_ne x v hk, bufRead_bufWrite_of_ne y v hk, h (Ne.symm hk)]
  · rw [bufRead_of_le _ hm, bufRead_of_le _ hm]

variable (P : Params) {s t : State}

/-! ### One decode attempt reads the codeword alone (R216 to R221) -/

section

variable (hcfg : t.decCfg = s.decCfg)
  (hcw : ∀ k < s.decCfg.depth.toNat * 255, bufRead s.dec.cw k = bufRead t.dec.cw k)

include hcfg hcw

theorem receivedBlock_congr (C : Cover) {i : Nat} (hi : i < s.decCfg.depth.toNat) :
    receivedBlock C t i = receivedBlock C s i := by
  apply buf_ext
  intro j hj
  have hplace := pos_lt (Layout.ofBit s.decCfg.ilvEn) hi hj
  rw [← place_eq_pos] at hplace
  rw [receivedBlock, receivedBlock, bufRead_ofFn _ hj, bufRead_ofFn _ hj, hcfg, receivedByte, receivedByte, hcfg,
    hcw _ hplace]

theorem blockAnswer_congr {i : Nat} (hi : i < s.decCfg.depth.toNat) : blockAnswer P t i = blockAnswer P s i := by
  rw [blockAnswer, blockAnswer, hcfg, receivedBlock_congr hcfg hcw P.cover hi]

theorem blockUsed_congr {i : Nat} (hi : i < s.decCfg.depth.toNat) : blockUsed P t i = blockUsed P s i := by
  rw [blockUsed, blockUsed, blockAnswer_congr P hcfg hcw hi, receivedBlock_congr hcfg hcw P.cover hi]

/-- Everything but the payload buffer comes out the same. -/
theorem receivedAttempt_congr (hdepth : s.decCfg.depth.toNat ≤ 8)
    (hsub : t.counters.subframesDecoded = s.counters.subframesDecoded) :
    (receivedAttempt P t).ok = (receivedAttempt P s).ok ∧
      (receivedAttempt P t).failMask = (receivedAttempt P s).failMask ∧
      (receivedAttempt P t).corr = (receivedAttempt P s).corr ∧
      (receivedAttempt P t).subframes = (receivedAttempt P s).subframes := by
  have hdepth' : t.decCfg.depth.toNat ≤ 8 := hcfg ▸ hdepth
  have hanswer {i : Nat} (hi : i < s.decCfg.depth.toNat) := blockAnswer_congr P hcfg hcw hi
  refine ⟨?ok, ?mask, ?corr, ?subframes⟩
  case ok =>
    rw [Bool.eq_iff_iff, receivedAttempt_ok P hdepth', receivedAttempt_ok P hdepth, hcfg]
    exact forall₂_congr fun i hi => by rw [hanswer hi]
  case mask =>
    refine BitVec.eq_of_getLsbD_eq fun i hi => ?_
    rw [Bool.eq_iff_iff, receivedAttempt_failMask P hdepth' hi, receivedAttempt_failMask P hdepth hi, hcfg]
    exact and_congr_right fun hi => by rw [hanswer hi]
  case corr =>
    rw [receivedAttempt_corr P hdepth', receivedAttempt_corr P hdepth, hcfg]
    congr 2
    exact List.map_congr_left fun i hi => by rw [hanswer (List.mem_range.mp hi)]
  case subframes =>
    rw [receivedAttempt_subframes P hdepth', receivedAttempt_subframes P hdepth, hcfg, hsub,
      List.filter_congr fun i hi => by rw [hanswer (List.mem_range.mp hi)]]

/-- The payload comes out the same, whatever the buffer held (R219). -/
theorem bufRead_receivedAttempt_pl_congr (hdepth : s.decCfg.depth.toNat ≤ 8) {k : Nat} (hk : k < decPLen s) :
    bufRead (receivedAttempt P t).pl k = bufRead (receivedAttempt P s).pl k := by
  obtain ⟨i, j, hi, hj, rfl⟩ := pos_surj (Layout.ofBit s.decCfg.ilvEn) hk
  change bufRead _ (pos _ s.decCfg.depth.toNat 223 i j) = bufRead _ (pos _ s.decCfg.depth.toNat 223 i j)
  rw [← place_eq_pos, bufRead_receivedAttempt_pl P hdepth hi hj, ← blockUsed_congr P hcfg hcw hi]
  have hplace := bufRead_receivedAttempt_pl P (s := t) (i := i) (by rw [hcfg]; exact hdepth) (by rw [hcfg]; exact hi) hj
  rwa [hcfg] at hplace

end

/-- A decode attempt cannot tell apart two states with the same codeword. -/
theorem hideBuffers_decodeFrame (hdepth : DepthInv s.decCfg.depth) {cw : Vector Byte Config.cwSize}
    {pl ebuf : Vector Byte Config.plSize} (hcw : ∀ k < s.decCfg.depth.toNat * 255, bufRead s.dec.cw k = bufRead cw k) :
    hideBuffers (decodeFrame P s) = hideBuffers (decodeFrame P (withBuffers s cw pl ebuf)) := by
  obtain ⟨hok, hmask, hcorr, hsub⟩ :=
    receivedAttempt_congr P (s := s) (t := withBuffers s cw pl ebuf) rfl hcw hdepth.2 rfl
  have hpl {k : Nat} (hk : k < decPLen s) :=
    bufRead_receivedAttempt_pl_congr P (s := s) (t := withBuffers s cw pl ebuf) rfl hcw hdepth.2 hk
  have hunit : 2 ≤ decPLen s := Nat.le_trans (by decide) (Nat.mul_le_mul_right 223 hdepth.1)
  have hfast := fillFast_congr (hpl (k := 0) (by omega)) (hpl (k := 1) (by omega))
  have hexh := fillExhaustive_congr (p := decPLen s) fun k hk => hpl hk
  have hbytes := take_toList_congr (n := decPLen s) fun k hk => hpl hk
  have hlen : decPLen (withBuffers s cw pl ebuf) = decPLen s := rfl
  rw [decodeFrame_eq_of_receivedAttempt, decodeFrame_eq_of_receivedAttempt]
  simp only [hideBuffers, attemptCounters, hlen, hok, hmask, hcorr, hsub, hfast, hexh, hbytes]
  rfl

/-! ### Bits (R203) -/

/-- Two bytes stored at the same place of two codewords that agree so far. -/
theorem bufRead_storeByte_congr {cw : Vector Byte Config.cwSize} {pl ebuf : Vector Byte Config.plSize}
    (hcw : ∀ k < s.dec.bytecnt.toNat, bufRead s.dec.cw k = bufRead cw k) {k : Nat} (hk : k < s.dec.bytecnt.toNat + 1) :
    bufRead (storeByte s).dec.cw k = bufRead (storeByte (withBuffers s cw pl ebuf)).dec.cw k :=
  bufRead_bufWrite_congr _ fun hne => hcw k (by omega)

theorem searchBit_same (h : SameButDeadBytes s t) :
    SameButDeadBytes (searchBit P s) (searchBit P t) := by
  obtain ⟨cw, pl, ebuf, rfl, hcw, hebuf⟩ := sameButDeadBytes_iff.mp h
  rcases Nat.lt_or_ge s.decCfg.t.toNat (hamming s.dec.sr s.syncWord) with hlt | hle
  · rwa [searchBit_of_lt P s hlt, searchBit_of_lt P (withBuffers s cw pl ebuf) hlt]
  · rw [searchBit_of_le P s hle, searchBit_of_le P (withBuffers s cw pl ebuf) hle]
    exact ⟨rfl, fun _ k hk => absurd hk (Nat.not_lt_zero k), hebuf⟩

theorem codewordBit_same (hdepth : DepthInv s.decCfg.depth) (hbuf : s.dec.bytecnt.toNat < Config.cwSize)
    (hrun : s.run = true) (h : SameButDeadBytes s t) : SameButDeadBytes (codewordBit P s) (codewordBit P t) := by
  obtain ⟨cw, pl, ebuf, rfl, hcw, hebuf⟩ := sameButDeadBytes_iff.mp h
  by_cases hbit : s.dec.bitcnt.toNat = 7
  case neg =>
    rw [codewordBit_of_ne_seven P s hbit, codewordBit_of_ne_seven P (withBuffers s cw pl ebuf) hbit]
    exact ⟨rfl, hcw, hebuf⟩
  case pos =>
    have hcount : (storeByte s).dec.bytecnt.toNat = s.dec.bytecnt.toNat + 1 := toNat_bytecnt_succ hbuf
    have hstored {k : Nat} (hk : k < s.dec.bytecnt.toNat + 1) :=
      bufRead_storeByte_congr (pl := pl) (ebuf := ebuf) (hcw hrun) hk
    rw [codewordBit_of_eq_seven P s hbit hbuf, codewordBit_of_eq_seven P (withBuffers s cw pl ebuf) hbit hbuf]
    by_cases hfull : s.dec.bytecnt.toNat + 1 = s.decCfg.depth.toNat * 255
    case neg =>
      rw [if_neg hfull, if_neg (by exact hfull)]
      exact ⟨rfl, fun _ k hk => hstored (hcount ▸ hk), hebuf⟩
    case pos =>
      rw [if_pos hfull, if_pos (by exact hfull)]
      have hvisible := hideBuffers_decodeFrame P (s := storeByte s) (pl := pl) (ebuf := ebuf) hdepth
        (cw := (storeByte (withBuffers s cw pl ebuf)).dec.cw) fun k hk => hstored (by rw [hfull]; exact hk)
      refine ⟨congrArg enterSyncSearch hvisible, fun _ k hk => absurd hk (Nat.not_lt_zero k), ?_⟩
      change (decodeFrame P (storeByte s)).run = true → ∀ k < (decodeFrame P (storeByte s)).enc.ecount.toNat,
        k < (decodeFrame P (storeByte s)).encCfg.depth.toNat * 223 →
        bufRead (decodeFrame P (storeByte s)).enc.ebuf k =
          bufRead (decodeFrame P (storeByte (withBuffers s cw pl ebuf))).enc.ebuf k
      rw [decodeFrame_run, decodeFrame_enc, decodeFrame_enc, decodeFrame_encCfg]
      exact hebuf

/-- A bit cannot tell two contents of the dead bytes apart. -/
theorem bitStep_same (hrun : s.run = true) (hinv : CoreInv s) (h : SameButDeadBytes s t) (b : Bool) :
    SameButDeadBytes (bitStep P s b) (bitStep P t b) := by
  obtain ⟨cw, pl, ebuf, rfl, hcw, hebuf⟩ := sameButDeadBytes_iff.mp h
  have hshifted : SameButDeadBytes (shifted s b) (shifted (withBuffers s cw pl ebuf) b) := ⟨rfl, hcw, hebuf⟩
  cases hd : s.dec.dstate with
  | syncSearch =>
    rw [bitStep_of_syncSearch P s b hd, bitStep_of_syncSearch P (withBuffers s cw pl ebuf) b hd]
    exact searchBit_same P hshifted
  | codeword =>
    rw [bitStep_of_codeword P s b hd, bitStep_of_codeword P (withBuffers s cw pl ebuf) b hd]
    exact codewordBit_same P hinv.decDepth hinv.inBuffer hrun hshifted

theorem bitSteps_same (hrun : s.run = true) (hinv : InvAt P s) (h : SameButDeadBytes s t) (bs : List Bool) :
    SameButDeadBytes (bitSteps P s bs) (bitSteps P t bs) := by
  induction bs generalizing s t with
  | nil => exact h
  | cons b bs ih =>
    exact ih ((bitStep_frame P s b).run.trans hrun) (invAt_bitStep P hrun hinv b) (bitStep_same P hrun hinv.1 h b)

/-! ### The encoder's commands (R251 to R255) -/

/-- The byte count never goes on by more than one. -/
theorem toNat_ecount_le_succ {c : BitVec Config.ecntWidth} :
    (inc P.ecntWidth c).toNat ≤ c.toNat + 1 ∧ (sat P.ecntWidth c).toNat ≤ c.toNat + 1 := by
  rw [toNat_inc P.ecntWidth_legal.2, toNat_sat P.ecntWidth_legal.2]
  exact ⟨Nat.mod_le .., Nat.min_le_left ..⟩

/-- A frame of the same payload is the same frame. -/
theorem encodeFrame_same (h : SameButDeadBytes s t) (p : List Byte) :
    SameButDeadBytes (encodeFrame P p s) (encodeFrame P p t) := by
  obtain ⟨cw, pl, ebuf, rfl, hcw, hebuf⟩ := sameButDeadBytes_iff.mp h
  rw [encodeFrame_eq, encodeFrame_eq, frameOf_congr P (s := withBuffers s cw pl ebuf) (t := s) rfl rfl rfl]
  exact ⟨rfl, hcw, hebuf⟩

theorem streamByte_same (hrun : s.run = true) (h : SameButDeadBytes s t) (b : Byte) :
    SameButDeadBytes (streamByte P b s) (streamByte P b t) := by
  obtain ⟨cw, pl, ebuf, rfl, hcw, hebuf⟩ := sameButDeadBytes_iff.mp h
  have hcount : (s.enc.store P b).ecount.toNat ≤ s.enc.ecount.toNat + 1 := (toNat_ecount_le_succ P).1
  have hstored {k : Nat} (hk : k < (s.enc.store P b).ecount.toNat) (hunit : k < s.encCfg.depth.toNat * 223) :
      bufRead (s.enc.store P b).ebuf k = bufRead ((withBuffers s cw pl ebuf).enc.store P b).ebuf k :=
    bufRead_bufWrite_congr b fun hne => hebuf hrun k (by omega) hunit
  by_cases hfull : (s.enc.store P b).ecount.toNat = encPLen s
  case neg =>
    rw [streamByte_of_ne P s b hfull, streamByte_of_ne P (withBuffers s cw pl ebuf) b hfull]
    exact ⟨rfl, hcw, fun _ k hk hunit => hstored hk hunit⟩
  case pos =>
    have hpayload : stagedPayload (s.withEnc (s.enc.store P b)) =
        stagedPayload ((withBuffers s cw pl ebuf).withEnc ((withBuffers s cw pl ebuf).enc.store P b)) :=
      take_toList_congr fun k hk => hstored (by rw [hfull]; exact hk) hk
    rw [streamByte_of_eq P s b hfull, streamByte_of_eq P (withBuffers s cw pl ebuf) b hfull, hpayload,
      frameOf_congr P (s := withBuffers s cw pl ebuf) (t := s) rfl rfl rfl]
    exact ⟨rfl, hcw, fun _ k hk => absurd hk (Nat.not_lt_zero k)⟩

theorem messageByte_same (hrun : s.run = true) (h : SameButDeadBytes s t) (b : Byte) :
    SameButDeadBytes (messageByte P b s) (messageByte P b t) := by
  obtain ⟨cw, pl, ebuf, rfl, hcw, hebuf⟩ := sameButDeadBytes_iff.mp h
  cases hpend : s.enc.pending with
  | true =>
    rw [messageByte_of_pending P b hpend, messageByte_of_pending P (s := withBuffers s cw pl ebuf) b hpend]
    exact ⟨rfl, hcw, hebuf⟩
  | false =>
    rw [messageByte_of_not_pending P b hpend, messageByte_of_not_pending P (s := withBuffers s cw pl ebuf) b hpend]
    refine ⟨rfl, hcw, fun _ k hk hunit => ?_⟩
    have hcount : (sat P.ecntWidth s.enc.ecount).toNat ≤ s.enc.ecount.toNat + 1 := (toNat_ecount_le_succ P).2
    have hlt : k < (sat P.ecntWidth s.enc.ecount).toNat := hk
    have hunit' : k < encPLen s := hunit
    change bufRead (if s.enc.ecount.toNat < encPLen s then _ else _) k =
      bufRead (if s.enc.ecount.toNat < encPLen s then _ else _) k
    split
    · exact bufRead_bufWrite_congr b fun hne => hebuf hrun k (by omega) hunit
    · exact hebuf hrun k (by omega) hunit

theorem queueEffect_same (h : SameButDeadBytes s t) : SameButDeadBytes (queueEffect s) (queueEffect t) := by
  obtain ⟨cw, pl, ebuf, rfl, hcw, hebuf⟩ := sameButDeadBytes_iff.mp h
  by_cases hturned : s.encCfg.msgMode = false ∨ s.enc.pending = true
  · rw [queueEffect_of_turnedAway hturned, queueEffect_of_turnedAway (s := withBuffers s cw pl ebuf) hturned]
    exact ⟨rfl, hcw, hebuf⟩
  · obtain ⟨hmode, hpend⟩ : s.encCfg.msgMode = true ∧ s.enc.pending = false := by simpa using hturned
    rw [queueEffect_of_not_pending hmode hpend, queueEffect_of_not_pending (s := withBuffers s cw pl ebuf) hmode hpend]
    exact ⟨rfl, hcw, hebuf⟩

/-- An invocation reads the staging buffer only for a message of the right length, whose bytes were all written. -/
theorem invokeEffect_same (hrun : s.run = true) (h : SameButDeadBytes s t) :
    SameButDeadBytes (invokeEffect P s) (invokeEffect P t) := by
  obtain ⟨cw, pl, ebuf, rfl, hcw, hebuf⟩ := sameButDeadBytes_iff.mp h
  rcases invokeEffect_cases P s with ⟨hmode, hs⟩ | ⟨hmode, hpend, hidle, hs⟩ | ⟨hmode, hpend, hidle, hs⟩ |
    ⟨hmode, hpend, hlen, hs⟩ | ⟨hmode, hpend, hlen, hs⟩ <;> rw [hs]
  · rw [invokeEffect_of_stream P (s := withBuffers s cw pl ebuf) hmode]
    exact ⟨rfl, hcw, hebuf⟩
  · rw [invokeEffect_of_idle P (s := withBuffers s cw pl ebuf) hmode hpend hidle]
    obtain ⟨hvisible, hcw', hebuf'⟩ := encodeFrame_same P h (zeros (encPLen s))
    exact ⟨congrArg (respond 0#32) hvisible, hcw', hebuf'⟩
  · rw [invokeEffect_of_malformed P (s := withBuffers s cw pl ebuf) hmode hpend hidle]
    exact ⟨rfl, hcw, hebuf⟩
  · rw [invokeEffect_of_mismatch P (s := withBuffers s cw pl ebuf) hmode hpend hlen]
    exact ⟨rfl, hcw, fun _ k hk => absurd hk (Nat.not_lt_zero k)⟩
  · have hpayload : stagedPayload s = stagedPayload (withBuffers s cw pl ebuf) :=
      take_toList_congr fun k hk => hebuf hrun k (by rw [hlen]; exact hk) hk
    rw [invokeEffect_of_message P (s := withBuffers s cw pl ebuf) hmode hpend hlen, hpayload]
    obtain ⟨hvisible, hcw', -⟩ := encodeFrame_same P h (stagedPayload (withBuffers s cw pl ebuf))
    exact ⟨congrArg (fun s => respond 0#32 (clearPending s)) hvisible, hcw',
      fun _ k hk => absurd hk (Nat.not_lt_zero k)⟩

/-! ### Register writes and the rest (R57 to R72, R600 to R603) -/

/-- No register write reads or writes a buffer. -/
theorem csrWrite_withBuffers (a : BitVec 8) (v : Word) (s : State) (cw : Vector Byte Config.cwSize)
    (pl ebuf : Vector Byte Config.plSize) :
    csrWrite P a v (withBuffers s cw pl ebuf) = withBuffers (csrWrite P a v s) cw pl ebuf := by
  rw [csrWrite, csrWrite]
  cases csrAt a with
  | none => rfl
  | some r =>
    cases r with
    | ctrl => simp only [writeCsr, writeCtrl, apply_ite (withBuffers · cw pl ebuf)]; rfl
    | decCfg => simp only [writeCsr, writeDecCfg, apply_ite (withBuffers · cw pl ebuf)]; rfl
    | encCfg => simp only [writeCsr, writeEncCfg, apply_ite (withBuffers · cw pl ebuf)]; rfl
    | syncWord => simp only [writeCsr, writeSyncWord, apply_ite (withBuffers · cw pl ebuf)]; rfl
    | status | decPos | shiftReg | lastCorr | framesRx | framesDec | subframesDec | fillDec | framesTx | encCount
    | params => rfl

theorem csrWrite_same (h : SameButDeadBytes s t) (a : BitVec 8) (v : Word) :
    SameButDeadBytes (csrWrite P a v s) (csrWrite P a v t) := by
  obtain ⟨cw, pl, ebuf, rfl, hcw, hebuf⟩ := sameButDeadBytes_iff.mp h
  rw [csrWrite_withBuffers]
  rcases csrWrite_cases P s a v with ⟨-, -, -, hw⟩ | ⟨-, hedge, hw⟩ | ⟨-, hrun, -, hw⟩ | ⟨-, hrun, -, hw⟩ |
    ⟨-, hrun, hw⟩ | ⟨-, hw⟩ | ⟨-, hw⟩ | ⟨-, hw⟩ <;> rw [hw]
  case inl => exact sameButDeadBytes_of_empty rfl rfl rfl
  case inr.inl =>
    have hon (hv : v.getLsbD 0 = true) : s.run = true := hedge.resolve_right (by simp [hv])
    exact ⟨rfl, fun hv => hcw (hon hv), fun hv => hebuf (hon hv)⟩
  case inr.inr.inl | inr.inr.inr.inl | inr.inr.inr.inr.inl => exact sameButDeadBytes_of_stopped rfl hrun
  all_goals exact ⟨rfl, hcw, hebuf⟩

theorem respond_same (h : SameButDeadBytes s t) (v : Word) : SameButDeadBytes (respond v s) (respond v t) :=
  ⟨congrArg (respond v) h.visible, h.codeword, h.payload⟩

theorem illegalCommand_same (h : SameButDeadBytes s t) : SameButDeadBytes (illegalCommand s) (illegalCommand t) :=
  ⟨congrArg illegalCommand h.visible, h.codeword, h.payload⟩

/-- A read shows no buffer byte. -/
theorem csrRead_same (h : SameButDeadBytes s t) (a : BitVec 8) : csrRead P a s = csrRead P a t := by
  obtain ⟨cw, pl, ebuf, rfl, -, -⟩ := sameButDeadBytes_iff.mp h
  rfl

theorem run_same (h : SameButDeadBytes s t) : t.run = s.run := (congrArg State.run h.visible).symm

/-- A data command cannot tell two contents of the dead bytes apart if its effect cannot. -/
theorem dataCommand_same {effect : State → State} (h : SameButDeadBytes s t)
    (heffect : s.run = true → SameButDeadBytes (effect s) (effect t)) :
    SameButDeadBytes (dataCommand effect s) (dataCommand effect t) := by
  rcases Bool.eq_false_or_eq_true s.run with hrun | hrun
  · rw [dataCommand_of_run s effect hrun, dataCommand_of_run t effect ((run_same h).trans hrun)]
    exact heffect hrun
  · rw [dataCommand_of_stopped s effect hrun, dataCommand_of_stopped t effect ((run_same h).trans hrun)]
    exact illegalCommand_same h

/-- No command can tell two contents of the dead bytes apart. -/
theorem effectAt_same (hinv : InvAt P s) (h : SameButDeadBytes s t) (i : Instr) :
    SameButDeadBytes (effectAt P i s) (effectAt P i t) := by
  cases i with
  | nop => exact respond_same h _
  | dbit b =>
    exact dataCommand_same (effect := fun s => respond 0#32 (bitStep P s b)) h fun hrun =>
      respond_same (bitStep_same P hrun hinv.1 h b) _
  | dbatch n d =>
    exact dataCommand_same (effect := fun s => respond 0#32 (bitSteps P s (batchBits n d))) h fun hrun =>
      respond_same (bitSteps_same P hrun hinv h (batchBits n d)) _
  | ebyte b =>
    refine dataCommand_same h fun hrun => respond_same ?_ _
    have hmode : t.encCfg.msgMode = s.encCfg.msgMode := (congrArg (·.encCfg.msgMode) h.visible).symm
    rw [hmode]
    split
    · exact messageByte_same P hrun h b
    · exact streamByte_same P hrun h b
  | emsg => exact dataCommand_same h fun _ => queueEffect_same h
  | einvoke => exact dataCommand_same h fun hrun => invokeEffect_same P hrun h
  | csrr a =>
    change SameButDeadBytes (respond (csrRead P a s) s) (respond (csrRead P a t) t)
    rw [csrRead_same P h a]
    exact respond_same h _
  | csrw a v => exact respond_same (csrWrite_same P h a v) _
  | cntclr => exact ⟨congrArg cntclrEffect h.visible, h.codeword, h.payload⟩
  | reinit => exact sameButDeadBytes_of_empty (congrArg reinitEffect h.visible) rfl rfl

end Machine

end Sys2Proof
end

section
/-! SUPPORT. The statement about the unspecified buffer contents, settled (spec/10_state.md R45, R46, R49, R76). -/

namespace Sys2Proof

open Machine

/-- Settles O58: every command keeps the live bytes equal and reads no others, and the reset leaves none live. -/
theorem deadBufferBytesAreUnobservable : Obligations.DeadBufferBytesAreUnobservable := by
  unfold Obligations.DeadBufferBytesAreUnobservable
  intro s s' t hinv h hstep
  rw [step_next hstep]
  refine ⟨stepTo s', step_eq s', ?_⟩
  have hport : s'.port = s.port := (congrArg State.port h.visible).symm
  have hrest (rest : List HostInput) : SameButDeadBytes (s.withPort rest) (s'.withPort rest) :=
    ⟨congrArg (·.withPort rest) h.visible, h.codeword, h.payload⟩
  unfold stepTo
  rw [hport]
  cases s.port with
  | nil => exact h
  | cons input rest =>
    cases input with
    | reset => exact sameButDeadBytes_of_empty (congrArg (hardwareReset thisCore) (hrest rest).visible) rfl rfl
    | command cmd wdata =>
      simp only [transactTo]
      cases decode cmd wdata with
      | ok i => exact effectAt_same thisCore (invAt_thisCore.mpr (coreInv_withPort hinv rest)) (hrest rest) i
      | error x => exact illegalCommand_same (hrest rest)

end Sys2Proof
end

section
/-! SUPPORT. What no command reads: the sticky bits, the last-decode results and IDLE_GAP steer nothing
(spec/10_state.md R75, spec/60_exceptions.md R513). Each operation takes two states that differ in them alone to two
such states, branch by branch. -/

namespace Sys2Proof

namespace Machine

/-- The state with other sticky bits, other results and another IDLE_GAP. -/
def withRecords (s : State) (k : Sticky) (l : LastResult) (g : BitVec 16) : State :=
  { s with sticky := k, last := l, encCfg := { s.encCfg with idleGap := g } }

/-- Two states that differ at most in the records. -/
def SameButRecords (s t : State) : Prop := ∃ k l g, t = withRecords s k l g

theorem SameButRecords.of_ite {c : Prop} [Decidable c] {s s' t t' : State} (hs : SameButRecords s s')
    (ht : SameButRecords t t') : SameButRecords (if c then s else t) (if c then s' else t') := by
  split
  · exact hs
  · exact ht

variable (P : Params) {s t : State}

theorem respond_sameButRecords (h : SameButRecords s t) (v : Word) : SameButRecords (respond v s) (respond v t) := by
  obtain ⟨k, l, g, rfl⟩ := h
  exact ⟨k, l, g, rfl⟩

theorem raise_sameButRecords (h : SameButRecords s t) (e : Event) : SameButRecords (raise e s) (raise e t) := by
  obtain ⟨k, l, g, rfl⟩ := h
  exact ⟨k.record e, l, g, rfl⟩

theorem illegalCommand_sameButRecords (h : SameButRecords s t) :
    SameButRecords (illegalCommand s) (illegalCommand t) :=
  respond_sameButRecords (raise_sameButRecords h _) _

/-! ### Bits (R203) -/

/-- An attempt reads the codeword and the configuration of the decoder, and writes the results whole (R215). -/
theorem decodeFrame_sameButRecords (h : SameButRecords s t) :
    SameButRecords (decodeFrame P s) (decodeFrame P t) := by
  obtain ⟨k, l, g, rfl⟩ := h
  rw [decodeFrame_eq_of_receivedAttempt, decodeFrame_eq_of_receivedAttempt]
  exact ⟨{ k with uncorr := k.uncorr || !(receivedAttempt P s).ok }, _, g, rfl⟩

theorem bitStep_sameButRecords (h : SameButRecords s t) (b : Bool) :
    SameButRecords (bitStep P s b) (bitStep P t b) := by
  obtain ⟨k, l, g, rfl⟩ := h
  cases hd : s.dec.dstate with
  | syncSearch =>
    rw [bitStep_of_syncSearch P s b hd, bitStep_of_syncSearch P (withRecords s k l g) b hd]
    exact .of_ite ⟨k, l, g, rfl⟩ ⟨k, l, g, rfl⟩
  | codeword =>
    rw [bitStep_of_codeword P s b hd, bitStep_of_codeword P (withRecords s k l g) b hd]
    have hdecoded : SameButRecords (decodeFrame P (storeByte (shifted s b)))
        (decodeFrame P (storeByte (shifted (withRecords s k l g) b))) :=
      decodeFrame_sameButRecords P ⟨k, l, g, rfl⟩
    have hentered : SameButRecords (enterSyncSearch (decodeFrame P (storeByte (shifted s b))))
        (enterSyncSearch (decodeFrame P (storeByte (shifted (withRecords s k l g) b)))) := by
      obtain ⟨k', l', g', h⟩ := hdecoded
      exact ⟨k', l', g', congrArg enterSyncSearch h⟩
    exact .of_ite (.of_ite hentered ⟨k, l, g, rfl⟩) ⟨k, l, g, rfl⟩

theorem bitSteps_sameButRecords (h : SameButRecords s t) (bs : List Bool) :
    SameButRecords (bitSteps P s bs) (bitSteps P t bs) := by
  induction bs generalizing s t with
  | nil => exact h
  | cons b bs ih => exact ih (bitStep_sameButRecords P h b)

/-! ### The encoder's commands (R251 to R256) -/

/-- A frame is made of the payload, the marker and the configuration without IDLE_GAP (R256). -/
theorem encodeFrame_sameButRecords (h : SameButRecords s t) (p : List Byte) :
    SameButRecords (encodeFrame P p s) (encodeFrame P p t) := by
  obtain ⟨k, l, g, rfl⟩ := h
  exact ⟨k, l, g, rfl⟩

theorem clearPending_sameButRecords (h : SameButRecords s t) : SameButRecords (clearPending s) (clearPending t) := by
  obtain ⟨k, l, g, rfl⟩ := h
  exact ⟨k, l, g, rfl⟩

theorem byteEffect_sameButRecords (h : SameButRecords s t) (b : Byte) :
    SameButRecords (byteEffect P b s) (byteEffect P b t) := by
  have hraise := raise_sameButRecords h .illegalCommand
  obtain ⟨k, l, g, rfl⟩ := h
  refine respond_sameButRecords (.of_ite ?message ?stream) _
  case message => exact .of_ite hraise ⟨k, l, g, rfl⟩
  case stream => exact .of_ite ⟨k, l, g, rfl⟩ ⟨k, l, g, rfl⟩

theorem queueEffect_sameButRecords (h : SameButRecords s t) : SameButRecords (queueEffect s) (queueEffect t) := by
  have hraise := raise_sameButRecords h .illegalCommand
  obtain ⟨k, l, g, rfl⟩ := h
  exact respond_sameButRecords (.of_ite hraise ⟨k, l, g, rfl⟩) _

theorem invokeEffect_sameButRecords (h : SameButRecords s t) :
    SameButRecords (invokeEffect P s) (invokeEffect P t) := by
  have hraise := raise_sameButRecords h
  have hframe := encodeFrame_sameButRecords P h
  obtain ⟨k, l, g, rfl⟩ := h
  refine respond_sameButRecords (.of_ite (hraise _) (.of_ite (.of_ite (hframe _) (hraise _)) (.of_ite ?_ ?_))) _
  · exact clearPending_sameButRecords (hraise _)
  · exact clearPending_sameButRecords (hframe _)

/-! ### Register writes (R57 to R72) -/

theorem csrWrite_sameButRecords (h : SameButRecords s t) (a : BitVec 8) (v : Word) :
    SameButRecords (csrWrite P a v s) (csrWrite P a v t) := by
  have hraise := raise_sameButRecords h .configRejected
  obtain ⟨k, l, g, rfl⟩ := h
  rw [csrWrite, csrWrite]
  cases csrAt a with
  | none => exact ⟨k, l, g, rfl⟩
  | some r =>
    cases r with
    | ctrl => exact .of_ite ⟨k, l, g, rfl⟩ ⟨k, l, g, rfl⟩
    | decCfg => exact .of_ite hraise (.of_ite ⟨k, l, g, rfl⟩ hraise)
    | encCfg => exact .of_ite hraise (.of_ite ⟨k, l, _, rfl⟩ hraise)
    | syncWord => exact .of_ite hraise ⟨k, l, g, rfl⟩
    | status => exact ⟨k.clear v, l, g, rfl⟩
    | decPos | shiftReg | lastCorr | framesRx | framesDec | subframesDec | fillDec | framesTx | encCount
    | params => exact ⟨k, l, g, rfl⟩

/-- No command but a read depends on the records. -/
theorem effectAt_sameButRecords (h : SameButRecords s t) {i : Instr} (hi : i.opcode ≠ .csrr) :
    SameButRecords (effectAt P i s) (effectAt P i t) := by
  have hdata {effect : State → State} (heffect : SameButRecords (effect s) (effect t)) :
      SameButRecords (dataCommand effect s) (dataCommand effect t) := by
    have hillegal := illegalCommand_sameButRecords h
    obtain ⟨k, l, g, rfl⟩ := h
    exact .of_ite heffect hillegal
  cases i with
  | nop => exact respond_sameButRecords h _
  | dbit b =>
    exact hdata (effect := fun s => respond 0#32 (bitStep P s b))
      (respond_sameButRecords (bitStep_sameButRecords P h b) _)
  | dbatch n d =>
    exact hdata (effect := fun s => respond 0#32 (bitSteps P s (batchBits n d)))
      (respond_sameButRecords (bitSteps_sameButRecords P h (batchBits n d)) _)
  | ebyte b => exact hdata (byteEffect_sameButRecords P h b)
  | emsg => exact hdata (queueEffect_sameButRecords h)
  | einvoke => exact hdata (invokeEffect_sameButRecords P h)
  | csrr a => exact absurd rfl hi
  | csrw a v => exact respond_sameButRecords (csrWrite_sameButRecords P h a v) _
  | cntclr => obtain ⟨k, l, g, rfl⟩ := h; exact ⟨k, l, g, rfl⟩
  | reinit => obtain ⟨k, l, g, rfl⟩ := h; exact ⟨Sticky.reset, LastResult.reset, g, rfl⟩

end Machine

end Sys2Proof
end

section
/-! SUPPORT. The statement about the records, settled (spec/10_state.md R75). -/

namespace Sys2Proof

open Machine

/-- Settles O55: a read changes the response alone, and every other command takes states that differ in the records
alone to such states. -/
theorem recordsSteerNothing : Obligations.RecordsSteerNothing := by
  unfold Obligations.RecordsSteerNothing
  intro s t i k l g hexec
  obtain rfl := exec_next hexec
  change ∃ t', exec i (withRecords s k l g) = .next t' ∧ _
  refine ⟨_, exec_eq i _, ?_⟩
  by_cases hi : i.opcode = .csrr
  case pos =>
    cases i with
    | csrr a => rfl
    | nop | dbit | dbatch | ebyte | emsg | einvoke | csrw | cntclr | reinit => cases hi
  case neg =>
    obtain ⟨k', l', g', h⟩ := effectAt_sameButRecords thisCore (s := s) ⟨k, l, g, rfl⟩ hi
    rw [h, if_neg hi]
    rfl

end Sys2Proof
end

section
/-! SUPPORT. A received codeword whose blocks the engine takes back to the encoded ones gives the payload
(spec/40_bit_synchronizer.md R215 to R221, spec/45_rs_codec_control.md R367). -/

namespace Sys2Proof

namespace Machine

variable (P : Params) {s : State}

/-- What an attempt that ends in `t` shows if it decoded the payload `p` (R219 to R221). -/
structure DecodedPayload (P : Params) (s t : State) (p : List Byte) (corrections : Nat) : Prop where
  rx : t.rx = (if p[0]? = some 0#8 ∧ p[1]? = some 0#8 then s.rx else s.rx ++ [p])
  ok : t.last.ok = true
  failMask : t.last.failMask = 0#8
  corr : t.last.corr = BitVec.ofNat 32 corrections
  counters : t.counters =
    { s.counters with
      framesDecoded := countOn P.cntWidth 1 s.counters.framesDecoded
      subframesDecoded :=
        countOn P.cntWidth (if s.decCfg.rsEn then s.decCfg.depth.toNat else 0) s.counters.subframesDecoded
      fillFramesDecoded :=
        countOn P.cntWidth (if p[0]? = some 0#8 ∧ p[1]? = some 0#8 then 1 else 0) s.counters.fillFramesDecoded }

section

variable {c : EncCfg} {p : List Byte}

/-- A payload byte is the data byte of its sub-block (R257). -/
theorem getElem?_place_eq_sentData (hlen : p.length = c.depth.toNat * 223) {i j : Nat} (hi : i < c.depth.toNat)
    (hj : j < 223) : p[place c.ilvEn c.depth.toNat 223 i j]? = some (bufRead (sentData c p i) j) := by
  have hlt : place c.ilvEn c.depth.toNat 223 i j < p.length := by
    rw [hlen, place_eq_pos]; exact pos_lt _ hi hj
  rw [sentData, bufRead_ofFn _ hj, List.getD_eq_getElem?_getD, List.getElem?_eq_getElem hlt, Option.getD_some]

/-- The data bytes of an encoded block are the data encoded (R362). -/
theorem bufRead_encodedBlock_data (e : RsEngine) (rs dual : Bool) (data : Data223) {j : Nat} (hj : j < 223) :
    bufRead (encodedBlock e rs dual data) j = bufRead data j := by
  rw [bufRead_encodedBlock e rs dual data (Nat.lt_of_lt_of_le hj (by decide)), if_pos hj]

variable {rs : Bool} {count : Nat → Nat} (hsame : SameProfile s.decCfg c) (hlen : p.length = c.depth.toNat * 223)
  (hanswer : ∀ i < s.decCfg.depth.toNat,
    blockAnswer P s i = some (count i, encodedBlock P.engine rs c.dual (sentData c p i)))

include hsame hlen hanswer

/-- The payload received is the one sent. -/
theorem isReceivedPayload_of_answers : IsReceivedPayload P s p := by
  obtain ⟨hdepth, hilv, -, -⟩ := hsame
  refine ⟨hdepth ▸ hlen, fun i hi j hj => ?_⟩
  rw [blockUsed, hanswer i hi, hdepth, hilv, getElem?_place_eq_sentData hlen (hdepth ▸ hi) hj]
  exact congrArg some (bufRead_encodedBlock_data P.engine rs c.dual _ hj).symm

/-- Every block answered with its encoded block: the frame succeeds and publishes the payload unless it is fill. -/
theorem decodedPayload_of_answers (hpos : 1 ≤ s.decCfg.depth.toNat) (hmax : s.decCfg.depth.toNat ≤ 8) :
    DecodedPayload P s (decodeFrame P s) p ((List.range s.decCfg.depth.toNat).map count).sum := by
  have hpayload := isReceivedPayload_of_answers P hsame hlen hanswer
  obtain ⟨hfast, -⟩ := decodeAttemptPublication P s p hpos hmax hpayload
  have hok : (receivedAttempt P s).ok = true := (receivedAttempt_ok P hmax).mpr fun i hi => by
    rw [hanswer i hi]; exact Option.some_ne_none _
  have hsome : ((List.range s.decCfg.depth.toNat).filter fun i => (blockAnswer P s i).isSome) =
      List.range s.decCfg.depth.toNat :=
    List.filter_eq_self.mpr fun i hi => by rw [hanswer i (List.mem_range.mp hi)]; rfl
  have hcounts : ((List.range s.decCfg.depth.toNat).map fun i => ((blockAnswer P s i).map Prod.fst).getD 0) =
      (List.range s.decCfg.depth.toNat).map count :=
    List.map_congr_left fun i hi => by rw [hanswer i (List.mem_range.mp hi)]; rfl
  rw [decodeFrame_eq_of_receivedAttempt] at hfast ⊢
  refine ⟨?rx, hok, (receivedAttempt_ok_iff_failMask P hmax).mp hok, ?corr, ?counters⟩
  case rx =>
    dsimp only at hfast ⊢
    rw [hok, ← eq_take_of_isReceivedPayload P hmax hpayload]
    simp only [← hfast]
    cases fillFast (receivedAttempt P s).pl <;> rfl
  case corr => rw [← hcounts]; exact receivedAttempt_corr P hmax
  case counters =>
    dsimp only at hfast ⊢
    rw [attemptCounters, hok, receivedAttempt_subframes P hmax, hsome, List.length_range, ite_inc_eq_countOn,
      ite_inc_eq_countOn]
    simp only [hfast, if_true]

end

end Machine

end Sys2Proof
end

section
/-! SUPPORT. The statement about the engine's limit, settled. -/

namespace Sys2Proof

open Machine

/-- Settles O60: within its limit the engine answers every block with the encoded one, whose data are the payload. -/
theorem noiseToleratedUpToTheEnginesLimit : Obligations.NoiseToleratedUpToTheEnginesLimit := by
  unfold Obligations.NoiseToleratedUpToTheEnginesLimit
  intro P t s c p hcorrects hpos hmax hrs hsame hlen hnoise
  obtain ⟨hdepth, -, -, hdual⟩ := id hsame
  have hanswer : ∀ i < s.decCfg.depth.toNat, blockAnswer P s i =
      some (diffCount (receivedBlock P.cover s i) (encodedBlock P.engine true c.dual (sentData c p i)),
        encodedBlock P.engine true c.dual (sentData c p i)) := fun i hi => by
    rw [blockAnswer, if_pos hrs, hdual]
    exact hcorrects _ _ _ (hnoise i (hdepth ▸ hi))
  obtain ⟨hrx, hok, hmask, hcorr, hcounters⟩ := decodedPayload_of_answers P hsame hlen hanswer hpos hmax
  rw [hcounters, hrs, ← hdepth]
  exact ⟨hrx, hok, hmask, rfl, rfl, hcorr⟩

end Sys2Proof
end

section
/-! SUPPORT. The two directions of the channel as a whole: a payload unit fed to the encoder, and a codeword fed to the
decoder, byte by byte (spec/41_frame_assembler.md R251, spec/40_bit_synchronizer.md R203 to R209). -/

namespace Sys2Proof

namespace Machine

/-! ### A buffer filled from its start -/

/-- The buffer begins with the bytes of the list. -/
def BufHolds {m : Nat} (buf : Vector Byte m) (q : List Byte) : Prop := ∀ k < q.length, q[k]? = some (bufRead buf k)

theorem bufHolds_nil {m : Nat} (buf : Vector Byte m) : BufHolds buf [] := fun _ h => absurd h (Nat.not_lt_zero _)

theorem BufHolds.concat {m : Nat} {buf : Vector Byte m} {q : List Byte} (h : BufHolds buf q) (hroom : q.length < m)
    (b : Byte) : BufHolds (bufWrite buf q.length b) (q ++ [b]) := by
  intro k hk
  rw [List.length_append, List.length_singleton] at hk
  rcases Nat.lt_or_eq_of_le (Nat.le_of_lt_succ hk) with hlt | rfl
  · rw [List.getElem?_append_left hlt, h k hlt, bufRead_bufWrite_of_ne buf b hlt.ne']
  · rw [List.getElem?_concat_length, bufRead_bufWrite_self buf b hroom]

theorem BufHolds.take_eq {m : Nat} {buf : Vector Byte m} {q : List Byte} (h : BufHolds buf q) (hfits : q.length ≤ m) :
    buf.toList.take q.length = q := by
  refine List.ext_getElem? fun k => ?_
  rcases Nat.lt_or_ge k q.length with hk | hk
  · rw [getElem?_take_toList buf hk hfits, h k hk]
  · rw [List.getElem?_eq_none hk, List.getElem?_eq_none ((length_take_toList buf hfits).trans_le hk)]

variable (P : Params) {s : State}

/-! ### A payload unit fed to the encoder (R251, R252) -/

/-- One more byte of the unit being built (R251). -/
theorem BufHolds.store {c : Encoder} {q : List Byte} (h : BufHolds c.ebuf q) (hcount : c.ecount.toNat = q.length)
    (hroom : q.length < Config.plSize) (b : Byte) : BufHolds (c.store P b).ebuf (q ++ [b]) := by
  rw [Encoder.store, hcount]; exact h.concat hroom b

section

variable (hrun : s.run = true) (hmode : s.encCfg.msgMode = false) (hmax : s.encCfg.depth.toNat ≤ P.pMaxI)
  (hdepth : s.encCfg.depth.toNat ≤ 8) (hcount : s.enc.ecount = 0#16)

include hrun hmode hmax hdepth hcount

/-- Fewer bytes than a payload unit has are stored and counted; nothing else changes but the response. -/
theorem applyAll_ebytes_within (q : List Byte) (hq : q.length < encPLen s) :
    ∃ c v, applyAll P (q.map .ebyte) s = respond v (s.withEnc c) ∧ BufHolds c.ebuf q ∧ c.ecount.toNat = q.length ∧
      c.started = s.enc.started := by
  induction q using List.reverseRecOn with
  | nil => exact ⟨s.enc, s.rdata, rfl, bufHolds_nil _, congrArg BitVec.toNat hcount, rfl⟩
  | append_singleton q b ih =>
    rw [List.length_append, List.length_singleton] at hq
    obtain ⟨c, v, hs, hholds, hlen, hstarted⟩ := ih (Nat.lt_of_succ_lt hq)
    have hroom : q.length < Config.plSize := Nat.lt_of_lt_of_le (Nat.lt_of_succ_lt hq) (pLen_le hdepth)
    have hbyte : streamByte P b (respond v (s.withEnc c)) = (respond v (s.withEnc c)).withEnc (c.store P b) :=
      streamByte_of_lt P (s := respond v (s.withEnc c)) b hmax (hlen ▸ hq)
    have hcount' : (c.store P b).ecount.toNat = c.ecount.toNat + 1 :=
      toNat_store_ecount P (s := s.withEnc c) b hmax (hlen ▸ Nat.lt_of_succ_lt hq)
    refine ⟨c.store P b, 0#32, ?_, ?_, ?_, hstarted⟩
    · rw [List.map_append, applyAll_append, hs]
      refine (effectAt_ebyte_of_stream P (s := respond v (s.withEnc c)) b hrun hmode).trans ?_
      rw [hbyte]; rfl
    · exact hholds.store P hlen hroom b
    · rw [hcount', hlen, List.length_append, List.length_singleton]

/-- The state after a frame of the payload was emitted, with the encoder given (R263, R265). -/
def transmitted (P : Params) (s : State) (p : List Byte) (c : Encoder) : State :=
  { s with
    tx := s.tx ++ frameOf P s p
    counters := { s.counters with framesTransmitted := inc P.cntWidth s.counters.framesTransmitted }
    enc := c }

/-- The bytes of a payload unit emit its frame. -/
theorem applyAll_ebytes {p : List Byte} (hlen : p.length = encPLen s) (hp : p ≠ []) :
    ∃ c, applyAll P (p.map .ebyte) s = respond 0#32 (transmitted P s p c) := by
  obtain ⟨q, b, rfl⟩ := (List.eq_nil_or_concat' p).resolve_left hp
  have hunit : q.length + 1 = encPLen s := by rw [← hlen, List.length_append, List.length_singleton]
  obtain ⟨c, v, hs, hholds, hq, hstarted⟩ :=
    applyAll_ebytes_within P hrun hmode hmax hdepth hcount q (hunit ▸ Nat.lt_succ_self _)
  have hfits : encPLen s ≤ Config.plSize := pLen_le hdepth
  have hpayload : stagedPayload ((respond v (s.withEnc c)).withEnc (c.store P b)) = q ++ [b] := by
    have hwhole : BufHolds (c.store P b).ebuf (q ++ [b]) := hholds.store P hq (by omega) b
    have htake := hwhole.take_eq (hlen.trans_le hfits)
    rwa [hlen] at htake
  have hframe : frameOf P (respond v (s.withEnc c)) (q ++ [b]) = frameOf P s (q ++ [b]) :=
    frameOf_congr P (s := respond v (s.withEnc c)) (t := s) rfl rfl hstarted _
  have hlast := streamByte_of_last P (s := respond v (s.withEnc c)) b hmax (hq ▸ hunit)
  rw [show (respond v (s.withEnc c)).enc = c from rfl, hpayload, hframe] at hlast
  refine ⟨{ c.store P b with ecount := 0#16, started := true }, ?_⟩
  rw [List.map_append, applyAll_append, hs]
  refine (effectAt_ebyte_of_stream P (s := respond v (s.withEnc c)) b hrun hmode).trans ?_
  rw [hlast]; rfl

end

/-! ### A codeword fed to the decoder (R203, R207 to R209) -/

/-- The state after a bit that is shifted in and counted (R203). -/
def counted (s : State) (b : Bool) : State :=
  s.withDec { s.dec with sr := shiftIn s.dec.sr b, bitcnt := s.dec.bitcnt + 1#3 }

/-- Bits that do not complete a byte are shifted in and counted. -/
theorem bitSteps_within_byte (bs : List Bool) (hd : s.dec.dstate = .codeword)
    (hbits : s.dec.bitcnt.toNat + bs.length < 8) :
    bitSteps P s bs = s.withDec
      { s.dec with sr := bs.foldl shiftIn s.dec.sr, bitcnt := s.dec.bitcnt + BitVec.ofNat 3 bs.length } := by
  induction bs generalizing s with
  | nil => rw [List.length_nil, BitVec.add_zero]; rfl
  | cons b bs ih =>
    rw [List.length_cons] at hbits
    have hbit : (s.dec.bitcnt + 1#3).toNat = s.dec.bitcnt.toNat + 1 := by
      rw [BitVec.toNat_add]; exact Nat.mod_eq_of_lt (by change s.dec.bitcnt.toNat + 1 < 8; omega)
    have hcount : s.dec.bitcnt + 1#3 + BitVec.ofNat 3 bs.length = s.dec.bitcnt + BitVec.ofNat 3 (bs.length + 1) := by
      rw [BitVec.add_assoc, ← BitVec.ofNat_add_ofNat, BitVec.add_comm 1#3]
    calc bitSteps P (bitStep P s b) bs
      _ = bitSteps P (counted s b) bs := by
        rw [bitStep_of_codeword P s b hd,
          codewordBit_of_ne_seven P (shifted s b) (by change s.dec.bitcnt.toNat ≠ 7; omega)]
        rfl
      _ = _ := ih (s := counted s b) hd (by change (s.dec.bitcnt + 1#3).toNat + bs.length < 8; omega)
      _ = _ := by rw [List.length_cons, ← hcount]; rfl

/-- The decoder after a whole byte (R208). -/
def Decoder.storeByte (d : Decoder) (b : Byte) : Decoder :=
  { d with
    sr := (byteBits b).foldl shiftIn d.sr
    cw := bufWrite d.cw d.bytecnt.toNat b
    bytecnt := d.bytecnt + 1#11
    bitcnt := 0#3 }

/-- One more byte of the codeword being received (R208). -/
theorem BufHolds.storeByte {d : Decoder} {q : List Byte} (h : BufHolds d.cw q) (hcount : d.bytecnt.toNat = q.length)
    (hroom : q.length < Config.cwSize) (b : Byte) : BufHolds (d.storeByte b).cw (q ++ [b]) := by
  rw [Decoder.storeByte, hcount]; exact h.concat hroom b

theorem wireBits_append (q r : List Byte) : wireBits (q ++ r) = wireBits q ++ wireBits r := List.flatMap_append

theorem wireBits_singleton (b : Byte) : wireBits [b] = byteBits b := List.flatMap_singleton ..

/-- The low byte of the register is the last byte received (R104, R105). -/
theorem extractLsb'_foldl_byteBits (sr : Word) (b : Byte) :
    ((byteBits b).foldl shiftIn sr).extractLsb' 0 8 = b := by
  have hvalue : ∀ b : Byte, (byteBits b).foldl appendBit 0 = b.toNat := by decide
  apply BitVec.eq_of_toNat_eq
  rw [BitVec.extractLsb'_toNat, Nat.shiftRight_zero, ← hvalue b]
  exact toNat_foldl_shiftIn_mod sr (byteBits b) (by decide : 8 ≤ 32)

/-- The state after the first seven bits of a byte. -/
def sevenBits (s : State) (b : Byte) : State :=
  s.withDec { s.dec with sr := ((byteBits b).take 7).foldl shiftIn s.dec.sr, bitcnt := s.dec.bitcnt + 7#3 }

/-- The eight bits of a byte store it, and the byte that fills the codeword runs the attempt (R208, R209). -/
theorem bitSteps_byteBits (b : Byte) (hd : s.dec.dstate = .codeword) (hbit : s.dec.bitcnt = 0#3)
    (hbyte : s.dec.bytecnt.toNat < Config.cwSize) :
    bitSteps P s (byteBits b) =
      if s.dec.bytecnt.toNat + 1 = s.decCfg.depth.toNat * 255
      then enterSyncSearch (decodeFrame P (s.withDec (s.dec.storeByte b)))
      else s.withDec (s.dec.storeByte b) := by
  have hsplit : byteBits b = (byteBits b).take 7 ++ [b.getLsbD 0] := rfl
  have hseven : bitSteps P s ((byteBits b).take 7) = sevenBits s b :=
    bitSteps_within_byte P ((byteBits b).take 7) hd (by rw [hbit]; exact (by decide : 0 + 7 < 8))
  have hcount : (shifted (sevenBits s b) (b.getLsbD 0)).dec.bitcnt.toNat = 7 := by
    change (s.dec.bitcnt + 7#3).toNat = 7
    rw [hbit]; rfl
  have hstore : storeByte (shifted (sevenBits s b) (b.getLsbD 0)) = s.withDec (s.dec.storeByte b) := by
    have hlow := extractLsb'_foldl_byteBits s.dec.sr b
    exact congrArg (fun v => s.withDec { s.dec.storeByte b with cw := bufWrite s.dec.cw s.dec.bytecnt.toNat v }) hlow
  rw [hsplit, bitSteps_append, hseven, bitSteps_cons, bitSteps_nil, bitStep_of_codeword P (sevenBits s b) _ hd,
    codewordBit_of_eq_seven P _ hcount hbyte, hstore]
  rfl

/-- Fewer bytes than the codeword has fill the buffer and change the decoder alone. -/
theorem bitSteps_wireBits_within (q : List Byte) (hdepth : s.decCfg.depth.toNat ≤ 8) (hd : s.dec.dstate = .codeword)
    (hbit : s.dec.bitcnt = 0#3) (hbyte : s.dec.bytecnt = 0#11) (hq : q.length < s.decCfg.depth.toNat * 255) :
    ∃ d, bitSteps P s (wireBits q) = s.withDec d ∧ d.dstate = .codeword ∧ d.bitcnt = 0#3 ∧
      d.bytecnt.toNat = q.length ∧ BufHolds d.cw q := by
  induction q using List.reverseRecOn with
  | nil => exact ⟨s.dec, rfl, hd, hbit, congrArg BitVec.toNat hbyte, bufHolds_nil _⟩
  | append_singleton q b ih =>
    rw [List.length_append, List.length_singleton] at hq
    obtain ⟨d, hs, hd', hbit', hcount, hholds⟩ := ih (Nat.lt_of_succ_lt hq)
    have hroom : q.length < Config.cwSize := Nat.lt_of_lt_of_le (Nat.lt_of_succ_lt hq) (cwLen_le hdepth)
    refine ⟨d.storeByte b, ?_, hd', rfl, ?_, ?_⟩
    · rw [wireBits_append, bitSteps_append, hs, wireBits_singleton,
        bitSteps_byteBits P (s := s.withDec d) b hd' hbit' (hcount ▸ hroom)]
      exact if_neg (by change d.bytecnt.toNat + 1 ≠ s.decCfg.depth.toNat * 255; omega)
    · rw [List.length_append, List.length_singleton, ← hcount]
      exact toNat_bytecnt_succ (hcount ▸ hroom)
    · exact hholds.storeByte hcount hroom b

/-- The bytes of a whole codeword run one attempt, on a buffer that begins with them. -/
theorem bitSteps_wireBits {ecw : List Byte} (hdepth : s.decCfg.depth.toNat ≤ 8) (hd : s.dec.dstate = .codeword)
    (hbit : s.dec.bitcnt = 0#3) (hbyte : s.dec.bytecnt = 0#11) (hlen : ecw.length = s.decCfg.depth.toNat * 255)
    (hne : ecw ≠ []) :
    ∃ d, bitSteps P s (wireBits ecw) = enterSyncSearch (decodeFrame P (s.withDec d)) ∧ BufHolds d.cw ecw := by
  obtain ⟨q, b, rfl⟩ := (List.eq_nil_or_concat' ecw).resolve_left hne
  rw [List.length_append, List.length_singleton] at hlen
  obtain ⟨d, hs, hd', hbit', hcount, hholds⟩ :=
    bitSteps_wireBits_within P q hdepth hd hbit hbyte (hlen ▸ Nat.lt_succ_self _)
  have hroom : q.length < Config.cwSize := Nat.lt_of_lt_of_le (hlen ▸ Nat.lt_succ_self _) (cwLen_le hdepth)
  refine ⟨d.storeByte b, ?_, hholds.storeByte hcount hroom b⟩
  rw [wireBits_append, bitSteps_append, hs, wireBits_singleton,
    bitSteps_byteBits P (s := s.withDec d) b hd' hbit' (hcount ▸ hroom)]
  exact if_pos (by change d.bytecnt.toNat + 1 = _; rw [hcount]; exact hlen)

end Machine

end Sys2Proof
end

section
/-! SUPPORT. A frame taken back by the decoder: its marker, its codeword, and the blocks the engine is given
(R206, R216 to R218, R367). -/

namespace Sys2Proof

namespace Machine

variable (P : Params)

/-! ### What the engine answers on a codeword as it was sent -/

section

variable {s r : State} {p : List Byte} (hsame : SameProfile r.decCfg s.encCfg) (hmax : s.encCfg.depth.toNat ≤ 8)
  (hcw : BufHolds r.dec.cw (encodedCodeword P s p))

include hsame hmax hcw

/-- Descrambling undoes the scrambling (R216, R259, R324). -/
theorem receivedByte_of_sent {i j : Nat} (hi : i < s.encCfg.depth.toNat) (hj : j < 255) :
    receivedByte P.cover r (place s.encCfg.ilvEn s.encCfg.depth.toNat 255 i j) =
      sentByte P.engine s.encCfg p i j := by
  obtain ⟨-, -, hscr, -⟩ := hsame
  obtain ⟨hlen, hbytes⟩ := isSentCodeword_encodedCodeword P s p hmax
  have hlt : place s.encCfg.ilvEn s.encCfg.depth.toNat 255 i j < (encodedCodeword P s p).length := by
    rw [hlen, place_eq_pos]; exact pos_lt _ hi hj
  have hread := Option.some.inj ((hcw _ hlt).symm.trans (hbytes i hi j hj))
  rw [receivedByte, hread, hscr]
  cases s.encCfg.scrEn with
  | true => rw [if_pos rfl, if_pos rfl, BitVec.xor_assoc, BitVec.xor_self, BitVec.xor_zero]
  | false => rfl

/-- Every sub-block is received as it was encoded. -/
theorem receivedBlock_of_sent {i : Nat} (hi : i < s.encCfg.depth.toNat) :
    receivedBlock P.cover r i = encodedBlock P.engine s.encCfg.rsEn s.encCfg.dual (sentData s.encCfg p i) := by
  apply buf_ext
  intro j hj
  rw [receivedBlock, bufRead_ofFn _ hj, hsame.1, hsame.2.1, receivedByte_of_sent P hsame hmax hcw hi hj,
    ← bufRead_payloadEncodedBlock s p P.engine i hj, payloadEncodedBlock, payloadBlock_eq_sentData]

/-- With RS off at the decoder, or on at both ends with an engine that leaves encoded blocks alone, every sub-block is
answered with the encoded one and no correction. -/
theorem blockAnswer_of_sent (hrs : r.decCfg.rsEn = false ∨ (s.encCfg.rsEn = true ∧ P.engine.NoOpOnCodeword)) {i : Nat}
    (hi : i < s.encCfg.depth.toNat) :
    blockAnswer P r i = some (0, encodedBlock P.engine s.encCfg.rsEn s.encCfg.dual (sentData s.encCfg p i)) := by
  rw [blockAnswer, receivedBlock_of_sent P hsame hmax hcw hi]
  cases hon : r.decCfg.rsEn with
  | false => rfl
  | true =>
    obtain ⟨henc, hnoop⟩ := hrs.resolve_left (by simp [hon])
    rw [if_pos rfl, henc, hsame.2.2.2]
    exact hnoop _ _

/-- The attempt on the codeword as sent decodes the payload with no correction. -/
theorem decodedPayload_of_sent (hpos : 1 ≤ s.encCfg.depth.toNat)
    (hrs : r.decCfg.rsEn = false ∨ (s.encCfg.rsEn = true ∧ P.engine.NoOpOnCodeword))
    (hlen : p.length = s.encCfg.depth.toNat * 223) : DecodedPayload P r (decodeFrame P r) p 0 := by
  have hdepth : r.decCfg.depth = s.encCfg.depth := hsame.1
  have hdecoded := decodedPayload_of_answers P (count := fun _ => 0) hsame hlen
    (fun i hi => blockAnswer_of_sent P hsame hmax hcw hrs (hdepth ▸ hi)) (hdepth ▸ hpos) (hdepth ▸ hmax)
  rwa [List.map_const', List.sum_replicate, smul_zero] at hdecoded

end

/-! ### A marker and a codeword on the wire -/

variable {s : State}

/-- A marker and a codeword, from a search that starts anew: one attempt on the codeword, then a search again. -/
theorem bitSteps_marker_codeword {ecw : List Byte} (hd : s.dec.dstate = .syncSearch) (hsr : s.dec.sr = 0#32)
    (hlock : NoEarlyLock s.syncWord s.decCfg.t) (hpos : 1 ≤ s.decCfg.depth.toNat) (hmax : s.decCfg.depth.toNat ≤ 8)
    (hlen : ecw.length = s.decCfg.depth.toNat * 255) :
    ∃ d, bitSteps P s (wireBits (wireMarker s.syncWord ++ ecw)) =
      enterSyncSearch (decodeFrame P ((declareSync P s).withDec d)) ∧ BufHolds d.cw ecw := by
  obtain ⟨d, hs, hholds⟩ := bitSteps_wireBits P (s := declareSync P (withShiftReg s s.syncWord)) hmax rfl rfl rfl hlen
    (List.ne_nil_of_length_pos (by omega))
  refine ⟨d, ?_, hholds⟩
  rw [wireBits_append, bitSteps_append, wireBits_wireMarker, (bitSteps_marker P hd hsr hlock).2, hs]
  rfl

/-- The state after the attempt on a codeword received as `d`, before the decoder searches again (R206, R215). -/
def attempted (P : Params) (s : State) (d : Decoder) : State := decodeFrame P ((declareSync P s).withDec d)

/-- The state after the end of a frame whose attempt left `v`: the decoder searches again, and in tail mode has found
the trailing marker (R210, R262). -/
def afterFrame (P : Params) (tail : Bool) (v : State) : State :=
  if tail then declareSync P (withShiftReg (enterSyncSearch v) v.syncWord) else enterSyncSearch v

/-- What the end of a frame leaves as the attempt left it. -/
theorem afterFrame_frame (tail : Bool) (v : State) :
    (afterFrame P tail v).rx = v.rx ∧ (afterFrame P tail v).tx = v.tx ∧ (afterFrame P tail v).last = v.last := by
  cases tail <;> exact ⟨rfl, rfl, rfl⟩

theorem afterFrame_dec (tail : Bool) (v : State) :
    (afterFrame P tail v).dec.dstate = (if tail then .codeword else .syncSearch) ∧
      (afterFrame P tail v).dec.bitcnt = 0#3 ∧ (afterFrame P tail v).dec.bytecnt = 0#11 := by
  cases tail <;> exact ⟨rfl, rfl, rfl⟩

theorem afterFrame_counters (tail : Bool) (v : State) :
    (afterFrame P tail v).counters =
      { v.counters with
        framesReceived := countOn P.cntWidth (if tail then 1 else 0) v.counters.framesReceived } := by
  cases tail <;> rfl

/-- A marker found after another one (R14). -/
theorem countOn_marker (tail : Bool) (c : BitVec Config.cntWidth) :
    countOn P.cntWidth (if tail then 1 else 0) (inc P.cntWidth c) = countOn P.cntWidth (if tail then 2 else 1) c := by
  cases tail with
  | false => rfl
  | true => exact iterate_inc_eq_countOn P.cntWidth_legal.2 2 c

/-- The bits of the emitted frame: in normal mode one attempt; in tail mode, for the first frame, the trailing marker
is found after it (R261, R262). -/
theorem bitSteps_wireFrame {tail started : Bool} {ecw : List Byte} (hstarted : tail = true → started = false)
    (hd : s.dec.dstate = .syncSearch) (hsr : s.dec.sr = 0#32) (hlock : NoEarlyLock s.syncWord s.decCfg.t)
    (hpos : 1 ≤ s.decCfg.depth.toNat) (hmax : s.decCfg.depth.toNat ≤ 8)
    (hlen : ecw.length = s.decCfg.depth.toNat * 255) :
    ∃ d, BufHolds d.cw ecw ∧
      bitSteps P s (wireBits (wireFrame tail started (wireMarker s.syncWord) ecw)) =
        afterFrame P tail (attempted P s d) := by
  obtain ⟨d, hs, hholds⟩ := bitSteps_marker_codeword P hd hsr hlock hpos hmax hlen
  refine ⟨d, hholds, ?_⟩
  cases tail with
  | false => exact hs
  | true =>
    have hsync : (attempted P s d).syncWord = s.syncWord := decodeFrame_syncWord P _
    have hcfg : (attempted P s d).decCfg = s.decCfg := decodeFrame_decCfg P _
    have hmarker := (bitSteps_marker P (s := enterSyncSearch (attempted P s d)) rfl rfl
      (by rw [enterSyncSearch_eq, hsync, hcfg]; exact hlock)).2
    rw [hstarted rfl, wireFrame, wireBits_append, bitSteps_append, hs, wireBits_wireMarker, ← hsync]
    exact hmarker

/-- The emitted frame's bits, fed back to a decoder configured alike, decode the payload with no correction. -/
theorem bitSteps_frameOf_transmitted {p : List Byte} (c : Encoder) (hpos : 1 ≤ s.encCfg.depth.toNat)
    (hmax : s.encCfg.depth.toNat ≤ 8) (hstarted : s.encCfg.tail = true → s.enc.started = false)
    (hd : s.dec.dstate = .syncSearch) (hsr : s.dec.sr = 0#32) (hlock : NoEarlyLock s.syncWord s.decCfg.t)
    (hsame : SameProfile s.decCfg s.encCfg)
    (hrs : s.decCfg.rsEn = false ∨ (s.encCfg.rsEn = true ∧ P.engine.NoOpOnCodeword))
    (hlen : p.length = s.encCfg.depth.toNat * 223) :
    ∃ d, bitSteps P (transmitted P s p c) (wireBits (frameOf P s p)) =
        afterFrame P s.encCfg.tail (attempted P (transmitted P s p c) d) ∧
      DecodedPayload P ((declareSync P (transmitted P s p c)).withDec d) (attempted P (transmitted P s p c) d) p 0 := by
  have hdepth : s.decCfg.depth = s.encCfg.depth := hsame.1
  obtain ⟨d, hholds, hbits⟩ := bitSteps_wireFrame P (s := transmitted P s p c) hstarted hd hsr hlock (hdepth ▸ hpos)
    (hdepth ▸ hmax) ((length_encodedCodeword P s p hmax).trans (hdepth ▸ rfl))
  rw [frameOf_eq_wireFrame]
  exact ⟨d, hbits, decodedPayload_of_sent P hsame hmax hholds hpos hrs hlen⟩

end Machine

end Sys2Proof
end

section
/-! SUPPORT. The round trip, settled. -/

namespace Sys2Proof

open Machine

/-- Settles O59: the bytes emit the payload's frame, whose bits run one attempt on its codeword. -/
theorem roundTrip : Obligations.RoundTrip := by
  unfold Obligations.RoundTrip
  intro P s p hinv hmaxI hrun hmode hcount hd hsr hstarted hsame hlock hrs hlen
  obtain ⟨hpos, hmax⟩ := hinv.encDepth
  obtain ⟨c, ht⟩ := applyAll_ebytes P hrun hmode hmaxI hmax hcount hlen (List.ne_nil_of_length_pos (by omega))
  obtain ⟨d, hbits, hrx, hok, hmask, hcorr, hcounters⟩ :=
    bitSteps_frameOf_transmitted P c hpos hmax hstarted hd hsr hlock hsame hrs hlen
  have hu : applyAll P ((wireBits (frameOf P s p)).map .dbit) (respond 0#32 (transmitted P s p c)) =
      respond 0#32 (afterFrame P s.encCfg.tail (attempted P (transmitted P s p c) d)) := by
    rw [applyAll_dbits_of_run P (s := transmitted P s p c) _ hrun, hbits]
  obtain ⟨hrx', htx', hlast⟩ := afterFrame_frame P s.encCfg.tail (attempted P (transmitted P s p c) d)
  obtain ⟨hdstate, hbitcnt, hbytecnt⟩ := afterFrame_dec P s.encCfg.tail (attempted P (transmitted P s p c) d)
  have htx : (attempted P (transmitted P s p c) d).tx = (transmitted P s p c).tx := decodeFrame_tx P _
  have hcounters' := afterFrame_counters P s.encCfg.tail (attempted P (transmitted P s p c) d)
  rw [hcounters] at hcounters'
  refine ⟨_, _, frameOf P s p, ht, rfl, hu, hrx'.trans hrx, htx'.trans htx, (congrArg LastResult.ok hlast).trans hok,
    (congrArg LastResult.failMask hlast).trans hmask, (congrArg LastResult.corr hlast).trans hcorr,
    hcounters'.trans (by rw [← countOn_marker]; rfl), hdstate, hbitcnt, hbytecnt, ?exec⟩
  case exec =>
    rintro rfl
    rw [execAll_eq, execAll_eq, ht, hu]
    exact ⟨rfl, rfl⟩

end Sys2Proof
end
